-- ==== Sys2Proof/Word.lean ====
section
/-! DEFINITION. The two word types of the block (spec 00_scope.md R10): `u8` and `u16`, both unsigned and modular. -/

namespace Sys2Proof

/-- A `u8`: a data byte, a register, a byte of memory (R8, R10). -/
abbrev Byte := BitVec 8

/-- A `u16`: a CPU or video address, the program counter (R8, R10, R56). -/
abbrev Addr := BitVec 16

end Sys2Proof
end

