-- ==== Sys2Proof/Syntax.lean ====
section
/-! DEFINITION. The syntax of the admitted instruction set: 37 instructions, one constructor per row of the opcode table
(30_encoding.md R106). An instruction is a mnemonic in one addressing mode, with its operand field. -/

namespace Sys2Proof

/-- The addressing modes, which are also the instruction formats (00_scope.md R18; 30_encoding.md R101). -/
inductive Mode where
  | imp | imm | zp | zpx | zpy | abs | absx | absy
  deriving DecidableEq, Repr

/-- The mnemonics (00_scope.md R18; 30_encoding.md R106). -/
inductive Mnemonic where
  | lda | ldx | ldy | sta | stx | sty
  | tax | tay | txa | tya | tsx | txs
  | pha | php | pla | plp
  deriving DecidableEq, Repr

/-- The 37 admitted instructions (R106). The operand of the IMM format is data (`imm8`), of ZP, ZPX and ZPY a zero-page base
address (`zp8`), of ABS, ABSX and ABSY a 16-bit base address (`base16`) (R102). -/
inductive Instr where
  -- load (41_load.md)
  | ldaImm (imm8 : Byte) | ldaZp (zp8 : Byte) | ldaZpx (zp8 : Byte)
  | ldaAbs (base16 : Addr) | ldaAbsx (base16 : Addr) | ldaAbsy (base16 : Addr)
  | ldxImm (imm8 : Byte) | ldxZp (zp8 : Byte) | ldxZpy (zp8 : Byte)
  | ldxAbs (base16 : Addr) | ldxAbsy (base16 : Addr)
  | ldyImm (imm8 : Byte) | ldyZp (zp8 : Byte) | ldyZpx (zp8 : Byte)
  | ldyAbs (base16 : Addr) | ldyAbsx (base16 : Addr)
  -- store (42_store.md)
  | staZp (zp8 : Byte) | staZpx (zp8 : Byte)
  | staAbs (base16 : Addr) | staAbsx (base16 : Addr) | staAbsy (base16 : Addr)
  | stxZp (zp8 : Byte) | stxZpy (zp8 : Byte) | stxAbs (base16 : Addr)
  | styZp (zp8 : Byte) | styZpx (zp8 : Byte) | styAbs (base16 : Addr)
  -- transfer (43_transfer.md)
  | tax | tay | txa | tya | tsx | txs
  -- stack (44_stack.md)
  | pha | php | pla | plp
  deriving DecidableEq, Repr

/-- The mnemonic column of R106. -/
def Instr.mnemonic : Instr → Mnemonic
  | .ldaImm _ | .ldaZp _ | .ldaZpx _ | .ldaAbs _ | .ldaAbsx _ | .ldaAbsy _ => .lda
  | .ldxImm _ | .ldxZp _ | .ldxZpy _ | .ldxAbs _ | .ldxAbsy _ => .ldx
  | .ldyImm _ | .ldyZp _ | .ldyZpx _ | .ldyAbs _ | .ldyAbsx _ => .ldy
  | .staZp _ | .staZpx _ | .staAbs _ | .staAbsx _ | .staAbsy _ => .sta
  | .stxZp _ | .stxZpy _ | .stxAbs _ => .stx
  | .styZp _ | .styZpx _ | .styAbs _ => .sty
  | .tax => .tax | .tay => .tay | .txa => .txa | .tya => .tya | .tsx => .tsx | .txs => .txs
  | .pha => .pha | .php => .php | .pla => .pla | .plp => .plp

/-- The mode column of R106. -/
def Instr.mode : Instr → Mode
  | .ldaImm _ | .ldxImm _ | .ldyImm _ => .imm
  | .ldaZp _ | .ldxZp _ | .ldyZp _ | .staZp _ | .stxZp _ | .styZp _ => .zp
  | .ldaZpx _ | .ldyZpx _ | .staZpx _ | .styZpx _ => .zpx
  | .ldxZpy _ | .stxZpy _ => .zpy
  | .ldaAbs _ | .ldxAbs _ | .ldyAbs _ | .staAbs _ | .stxAbs _ | .styAbs _ => .abs
  | .ldaAbsx _ | .ldyAbsx _ | .staAbsx _ => .absx
  | .ldaAbsy _ | .ldxAbsy _ | .staAbsy _ => .absy
  | .tax | .tay | .txa | .tya | .tsx | .txs | .pha | .php | .pla | .plp => .imp

/-- The operand field as a number (R102); 0 where the format has none. -/
def Instr.operand : Instr → Nat
  | .ldaImm v | .ldxImm v | .ldyImm v => v.toNat
  | .ldaZp v | .ldxZp v | .ldyZp v | .staZp v | .stxZp v | .styZp v => v.toNat
  | .ldaZpx v | .ldyZpx v | .staZpx v | .styZpx v | .ldxZpy v | .stxZpy v => v.toNat
  | .ldaAbs b | .ldxAbs b | .ldyAbs b | .staAbs b | .stxAbs b | .styAbs b => b.toNat
  | .ldaAbsx b | .ldyAbsx b | .staAbsx b | .ldaAbsy b | .ldxAbsy b | .staAbsy b => b.toNat
  | .tax | .tay | .txa | .tya | .tsx | .txs | .pha | .php | .pla | .plp => 0

end Sys2Proof
end

