-- ==== Sys2Proof/WellFormed.lean ====
section
/-! DEFINITION. Which instructions may be written. `Instr` has a constructor for each admitted pair of mnemonic and mode only
and its fields have the operand's width, so every `Instr` is well formed; what can be ill-formed is a source line, before it
is an instruction. "An assembler must refuse any mnemonic-mode pair not in rule R106" (30_encoding.md R109). -/

namespace Sys2Proof

/-- The mnemonic-mode pairs of R106. -/
def admitted : Mnemonic → Mode → Bool
  | .lda, .imm | .lda, .zp | .lda, .zpx | .lda, .abs | .lda, .absx | .lda, .absy => true
  | .ldx, .imm | .ldx, .zp | .ldx, .zpy | .ldx, .abs | .ldx, .absy => true
  | .ldy, .imm | .ldy, .zp | .ldy, .zpx | .ldy, .abs | .ldy, .absx => true
  | .sta, .zp | .sta, .zpx | .sta, .abs | .sta, .absx | .sta, .absy => true
  | .stx, .zp | .stx, .zpy | .stx, .abs => true
  | .sty, .zp | .sty, .zpx | .sty, .abs => true
  | .tax, .imp | .tay, .imp | .txa, .imp | .tya, .imp | .tsx, .imp | .txs, .imp => true
  | .pha, .imp | .php, .imp | .pla, .imp | .plp, .imp => true
  | _, _ => false

/-- How many operand values a format has: one (no operand), 256 (a byte) or 65536 (a word) (R101, R102). -/
def Mode.operandBound : Mode → Nat
  | .imp => 1
  | .imm | .zp | .zpx | .zpy => 256
  | .abs | .absx | .absy => 65536

/-- A source line after its text has been read (R109): any mnemonic, in any mode, with any number. -/
structure SourceLine where
  mnemonic : Mnemonic
  mode     : Mode
  operand  : Nat
  deriving DecidableEq, Repr

/-- Two checks: the pair is a row of R106, and the operand fits the format's field. -/
def SourceLine.wellFormed (l : SourceLine) : Bool :=
  admitted l.mnemonic l.mode && decide (l.operand < l.mode.operandBound)

/-- The source line of an instruction. -/
def Instr.toSource (i : Instr) : SourceLine := ⟨i.mnemonic, i.mode, i.operand⟩

/-- An instruction is well formed when its source line is. -/
def Instr.wellFormed (i : Instr) : Bool := i.toSource.wellFormed

end Sys2Proof
end

