-- ==== Sys2Proof/Decode.lean ====
section
/-! DEFINITION. The opcode table (30_encoding.md R105, R106), the decoder, total on any bytes, and the encoder. -/

namespace Sys2Proof

/-- `hi : lo` (00_scope.md R10): the little-endian word of two bytes (20_memory.md R52). -/
def wordOf (lo hi : Byte) : Addr := hi ++ lo

/-- Bits 7:0 of a word, stored first (R52). -/
def loByte (w : Addr) : Byte := w.extractLsb' 0 8

/-- Bits 15:8 of a word, stored second (R52). -/
def hiByte (w : Addr) : Byte := w.extractLsb' 8 8

/-- Bytes of an instruction in this format, opcode byte included (R101, R103). -/
def Mode.length : Mode → Nat
  | .imp => 1
  | .imm | .zp | .zpx | .zpy => 2
  | .abs | .absx | .absy => 3

/-- Bytes of an instruction (R103). -/
def Instr.length (i : Instr) : Nat := i.mode.length

/-- A row of R106. `make` builds the instruction from byte 1 and byte 2; a format without a byte ignores it. -/
structure OpRow where
  opcode   : Byte
  mnemonic : Mnemonic
  mode     : Mode
  cycles   : Nat
  make     : Byte → Byte → Instr

/-- Rows 1 to 16 of R106 (41_load.md R151-R166). -/
def loadRows : List OpRow := [
  ⟨0xA9, .lda, .imm,  2, fun b1 _ => .ldaImm b1⟩,
  ⟨0xA5, .lda, .zp,   3, fun b1 _ => .ldaZp b1⟩,
  ⟨0xB5, .lda, .zpx,  4, fun b1 _ => .ldaZpx b1⟩,
  ⟨0xAD, .lda, .abs,  4, fun b1 b2 => .ldaAbs (wordOf b1 b2)⟩,
  ⟨0xBD, .lda, .absx, 4, fun b1 b2 => .ldaAbsx (wordOf b1 b2)⟩,
  ⟨0xB9, .lda, .absy, 4, fun b1 b2 => .ldaAbsy (wordOf b1 b2)⟩,
  ⟨0xA2, .ldx, .imm,  2, fun b1 _ => .ldxImm b1⟩,
  ⟨0xA6, .ldx, .zp,   3, fun b1 _ => .ldxZp b1⟩,
  ⟨0xB6, .ldx, .zpy,  4, fun b1 _ => .ldxZpy b1⟩,
  ⟨0xAE, .ldx, .abs,  4, fun b1 b2 => .ldxAbs (wordOf b1 b2)⟩,
  ⟨0xBE, .ldx, .absy, 4, fun b1 b2 => .ldxAbsy (wordOf b1 b2)⟩,
  ⟨0xA0, .ldy, .imm,  2, fun b1 _ => .ldyImm b1⟩,
  ⟨0xA4, .ldy, .zp,   3, fun b1 _ => .ldyZp b1⟩,
  ⟨0xB4, .ldy, .zpx,  4, fun b1 _ => .ldyZpx b1⟩,
  ⟨0xAC, .ldy, .abs,  4, fun b1 b2 => .ldyAbs (wordOf b1 b2)⟩,
  ⟨0xBC, .ldy, .absx, 4, fun b1 b2 => .ldyAbsx (wordOf b1 b2)⟩]

/-- Rows 17 to 27 of R106 (42_store.md R181-R191). -/
def storeRows : List OpRow := [
  ⟨0x85, .sta, .zp,   3, fun b1 _ => .staZp b1⟩,
  ⟨0x95, .sta, .zpx,  4, fun b1 _ => .staZpx b1⟩,
  ⟨0x8D, .sta, .abs,  4, fun b1 b2 => .staAbs (wordOf b1 b2)⟩,
  ⟨0x9D, .sta, .absx, 5, fun b1 b2 => .staAbsx (wordOf b1 b2)⟩,
  ⟨0x99, .sta, .absy, 5, fun b1 b2 => .staAbsy (wordOf b1 b2)⟩,
  ⟨0x86, .stx, .zp,   3, fun b1 _ => .stxZp b1⟩,
  ⟨0x96, .stx, .zpy,  4, fun b1 _ => .stxZpy b1⟩,
  ⟨0x8E, .stx, .abs,  4, fun b1 b2 => .stxAbs (wordOf b1 b2)⟩,
  ⟨0x84, .sty, .zp,   3, fun b1 _ => .styZp b1⟩,
  ⟨0x94, .sty, .zpx,  4, fun b1 _ => .styZpx b1⟩,
  ⟨0x8C, .sty, .abs,  4, fun b1 b2 => .styAbs (wordOf b1 b2)⟩]

/-- Rows 28 to 33 of R106 (43_transfer.md R201-R206). -/
def transferRows : List OpRow := [
  ⟨0xAA, .tax, .imp, 2, fun _ _ => .tax⟩,
  ⟨0xA8, .tay, .imp, 2, fun _ _ => .tay⟩,
  ⟨0x8A, .txa, .imp, 2, fun _ _ => .txa⟩,
  ⟨0x98, .tya, .imp, 2, fun _ _ => .tya⟩,
  ⟨0xBA, .tsx, .imp, 2, fun _ _ => .tsx⟩,
  ⟨0x9A, .txs, .imp, 2, fun _ _ => .txs⟩]

/-- Rows 34 to 37 of R106 (44_stack.md R211-R214). -/
def stackRows : List OpRow := [
  ⟨0x48, .pha, .imp, 3, fun _ _ => .pha⟩,
  ⟨0x08, .php, .imp, 3, fun _ _ => .php⟩,
  ⟨0x68, .pla, .imp, 4, fun _ _ => .pla⟩,
  ⟨0x28, .plp, .imp, 4, fun _ _ => .plp⟩]

/-- The complete dispatch table, 37 rows (R106). -/
def opcodeTable : List OpRow := loadRows ++ storeRows ++ transferRows ++ stackRows

/-- `Table[op]` (40_fetch_decode_addressing.md R120): the row the opcode byte alone selects (R100), or none (R107). -/
def lookup (op : Byte) : Option OpRow := opcodeTable.find? (fun row => row.opcode == op)

/-- Why bytes are no instruction. -/
inductive DecodeError where
  /-- Byte 0 is in no row of R106: an unknown opcode (R107), seen from byte 0 alone (R108). -/
  | unknownOpcode (op : Byte)
  /-- The list ends before the instruction does. A step never meets this: memory has a byte at every address. -/
  | truncated
  deriving DecidableEq, Repr

/-- The instruction of a row from the operand bytes, and the bytes after it (R101, R102). An operand byte is never checked (R108). -/
def OpRow.decodeOperands (row : OpRow) (rest : List Byte) : Except DecodeError (Instr × List Byte) :=
  match row.mode.length, rest with
  | 1, rest => .ok (row.make 0 0, rest)
  | 2, b1 :: rest => .ok (row.make b1 0, rest)
  | 3, b1 :: b2 :: rest => .ok (row.make b1 b2, rest)
  | _, _ => .error .truncated

/-- The decoder: the first instruction of a list of bytes, and the rest of the list (R100). -/
def decode : List Byte → Except DecodeError (Instr × List Byte)
  | [] => .error .truncated
  | op :: rest =>
    match lookup op with
    | none => .error (.unknownOpcode op)
    | some row => row.decodeOperands rest

/-- The encoder: the bytes of an instruction in increasing address order (R101, R102, R106), written out a second time. -/
def encode : Instr → List Byte
  | .ldaImm v => [0xA9, v]
  | .ldaZp v => [0xA5, v]
  | .ldaZpx v => [0xB5, v]
  | .ldaAbs b => [0xAD, loByte b, hiByte b]
  | .ldaAbsx b => [0xBD, loByte b, hiByte b]
  | .ldaAbsy b => [0xB9, loByte b, hiByte b]
  | .ldxImm v => [0xA2, v]
  | .ldxZp v => [0xA6, v]
  | .ldxZpy v => [0xB6, v]
  | .ldxAbs b => [0xAE, loByte b, hiByte b]
  | .ldxAbsy b => [0xBE, loByte b, hiByte b]
  | .ldyImm v => [0xA0, v]
  | .ldyZp v => [0xA4, v]
  | .ldyZpx v => [0xB4, v]
  | .ldyAbs b => [0xAC, loByte b, hiByte b]
  | .ldyAbsx b => [0xBC, loByte b, hiByte b]
  | .staZp v => [0x85, v]
  | .staZpx v => [0x95, v]
  | .staAbs b => [0x8D, loByte b, hiByte b]
  | .staAbsx b => [0x9D, loByte b, hiByte b]
  | .staAbsy b => [0x99, loByte b, hiByte b]
  | .stxZp v => [0x86, v]
  | .stxZpy v => [0x96, v]
  | .stxAbs b => [0x8E, loByte b, hiByte b]
  | .styZp v => [0x84, v]
  | .styZpx v => [0x94, v]
  | .styAbs b => [0x8C, loByte b, hiByte b]
  | .tax => [0xAA]
  | .tay => [0xA8]
  | .txa => [0x8A]
  | .tya => [0x98]
  | .tsx => [0xBA]
  | .txs => [0x9A]
  | .pha => [0x48]
  | .php => [0x08]
  | .pla => [0x68]
  | .plp => [0x28]

/-- The opcode byte of an instruction (R106). -/
def Instr.opcode (i : Instr) : Byte := (encode i).headD 0

/-- The three bytes, as many as the longest instruction has, of a table word: bit 0 is the least significant bit of the first
byte, and every bit from `nbits` on is 0. -/
def tableBytes (nbits w : Nat) : List Byte :=
  let v := w % 2 ^ nbits
  [BitVec.ofNat 8 v, BitVec.ofNat 8 (v / 256), BitVec.ofNat 8 (v / 65536)]

/-- The instruction the decoder reads from a table word. -/
def decodeTableWord (nbits w : Nat) : Option Instr :=
  match decode (tableBytes nbits w) with
  | .ok (i, _) => some i
  | .error _ => none

end Sys2Proof
end

