-- ==== Sys2Proof/Config.lean ====
section
/-! DEFINITION. The parameters of this hardware: the fixed ones of 00_scope.md R8 and the ones that the source leaves open and
the spec gives a value in R9 (log 5, 6, 7). The spec leaves no value free, so nothing here is opaque. -/

namespace Sys2Proof.Config

/-- Bytes of the AddressSpace (R8). -/
def spaceSize : Nat := 65536

/-- What a byte of the AddressSpace holds until it is written: "zero-initialized at construction" (10_state.md R34; log 4). -/
def unwrittenByte : Byte := 0x00

/-- First address of the stack page, 0x0100-0x01FF (R8; 10_state.md R26). -/
def stackBase : Addr := 0x0100

/-- `RESET_SP` (R9, D5; log 5). -/
def resetSp : Byte := 0xFD

/-- The address of the reset vector's low byte (R9, D6; log 5). -/
def resetVector : Addr := 0xFFFC

/-- First address of `PRG_WINDOW`, which reaches to 0xFFFF (R9, D14; log 7). -/
def prgWindowBase : Addr := 0x8000

/-- Last address of `CHR_WINDOW`, which begins at 0x0000 (R9, D15; log 7). -/
def chrWindowTop : Addr := 0x1FFF

/-- One program bank, 16 KiB (R8). -/
def prgBankSize : Nat := 16384

/-- One character bank, 8 KiB (R8). -/
def chrBankSize : Nat := 8192

/-- Size of the character RAM when the header counts no character bank (R9, D18; log 7). -/
def chrRamSize : Nat := 8192

/-- Size of the cartridge image's header (R8). -/
def headerSize : Nat := 16

/-- Size of the trainer, skipped at load (R8). -/
def trainerSize : Nat := 512

/-- The mapper identifier of the direct-map variant, the only one registered (R9, D16; log 7). -/
def directMapId : Byte := 0x00

end Sys2Proof.Config
end

