-- ==== Sys2Proof/Machine/State.lean ====
section
/-! DEFINITION. The state of the CORE block (10_state.md R20), the reasons a step stops, and the state after reset. -/

namespace Sys2Proof.Machine

/-- Bytes by address, as a list in one canonical form (`Memory.wf`). An address the list does not name holds
`Config.unwrittenByte` (10_state.md R34; log 4). -/
abbrev Memory := List Host.Cell

/-- The canonical form from address `lo` on: addresses strictly rise and lie in the AddressSpace, and no entry equals what an
unlisted address reads as. -/
def Memory.wfFrom : Nat → Memory → Bool
  | _, [] => true
  | lo, (a, v) :: m =>
    decide (lo ≤ a) && decide (a < Config.spaceSize) && (v != Config.unwrittenByte) && Memory.wfFrom (a + 1) m

/-- The canonical form: equal memories are equal lists. -/
def Memory.wf (m : Memory) : Bool := Memory.wfFrom 0 m

/-- The registers an instruction names as source or destination of a byte (R21, R22, R23, R26). -/
inductive Reg where
  | a | x | y | sp
  deriving DecidableEq, Repr

/-- The eight stored flags (R20, R29, R30). -/
structure Flags where
  /-- carry -/
  c : Bool
  /-- zero -/
  z : Bool
  /-- interrupt-disable; storage only, it masks nothing (60_exceptions.md R225) -/
  i : Bool
  /-- decimal; storage only, it selects nothing (R225) -/
  d : Bool
  /-- break; stored like the others (D3) -/
  b : Bool
  /-- the unused bit; stored like the others (D3) -/
  u : Bool
  /-- overflow -/
  v : Bool
  /-- negative -/
  n : Bool
  deriving DecidableEq, Repr

/-- The state of an attached cartridge (R35). -/
structure CartState where
  /-- false after a LoadError (20_memory.md R72) -/
  valid    : Bool
  /-- the identifier from the header (20_memory.md R70) -/
  mapperId : Byte
  /-- header byte 4, 16 KiB units -/
  prgBanks : Byte
  /-- header byte 5, 8 KiB units -/
  chrBanks : Byte
  /-- the program buffer; no access writes it -/
  prg      : List Byte
  /-- the character buffer; written only as RAM, by `video_write` -/
  chr      : List Byte
  /-- true exactly when `chrBanks` is 0 -/
  chrIsRam : Bool
  deriving DecidableEq, Repr

/-- The whole state of the CORE block, "and nothing else" (R20). -/
structure State where
  /-- accumulator (R21) -/
  a     : Byte
  /-- index register X (R22) -/
  x     : Byte
  /-- index register Y (R23) -/
  y     : Byte
  /-- program counter (R25) -/
  pc    : Addr
  /-- stack pointer, the low byte of an address in page 0x01 (R26) -/
  sp    : Byte
  /-- the eight flags (R29) -/
  flags : Flags
  /-- the AddressSpace (R34) -/
  space : Memory
  /-- the attached cartridge, if any (R35, R36) -/
  cart  : Option CartState
  deriving DecidableEq, Repr

/-- Why the machine stops. -/
inductive Fault where
  /-- Raised by `step` through `raiseUnknownOpcode` when the byte at PC is no admitted opcode (60_exceptions.md R220). The state
  is the state before the step; `hostCall .step` hands it back with the result. Safe: the caller may go on (R221), and a claim
  about going on is stated through `hostCall` (log 1). -/
  | unknownOpcode (op : Byte)
  deriving DecidableEq, Repr

/-- Why the model gives an instruction no meaning. -/
inductive Refusal where
  /-- Raised by an arm of `exec` for an instruction without a meaning; no arm does. Safe: the model stops. -/
  | notModelled (mnemonic : String)
  deriving DecidableEq, Repr

/-- What a meaning and a step answer. -/
abbrev Result := Host.Outcome State Fault Refusal

/-- All eight flags clear, `RESET_P` = 0x00 (R37, D4; log 5). -/
def Flags.reset : Flags := ⟨false, false, false, false, false, false, false, false⟩

/-- The machine right after reset (R37; 70_reset_and_hazards.md R240): constructed with the AddressSpace all 0x00 (R241) and no
cartridge attached (D12; log 3), so that PC is the word 0x0000 of the zero bytes at the reset vector (R243). -/
def State.reset : State where
  a := 0x00
  x := 0x00
  y := 0x00
  pc := 0x0000
  sp := Config.resetSp
  flags := Flags.reset
  space := []
  cart := none

end Sys2Proof.Machine
end

