-- ==== Sys2Proof/Machine/Cartridge.lean ====
section
/-! DEFINITION. The mapper (address translator) and the cartridge (bank multiplexer) of 20_memory.md R57-R68. -/

namespace Sys2Proof.Machine

/-- The mapper variants with an implementation (R57). The direct map is the only one (D16). -/
inductive Mapper where
  | directMap
  deriving DecidableEq, Repr

/-- Variants are keyed by mapper ID (R57); the registered identifiers are {0} (R70). -/
def mapperOf (id : Byte) : Option Mapper :=
  if id = Config.directMapId then some .directMap else none

/-- `cpu_read_translate` (R58): the window 0x8000-0xFFFF, mirrored in 16 KiB unless there are two banks or more. -/
def Mapper.cpuReadTranslate (m : Mapper) (c : CartState) (addr : Addr) : Option Nat :=
  match m with
  | .directMap =>
    if Config.prgWindowBase ≤ addr then
      if 1 < c.prgBanks.toNat then some (addr &&& 0x7FFF).toNat else some (addr &&& 0x3FFF).toNat
    else none

/-- `cpu_write_translate` (R59): the direct map claims no CPU write. -/
def Mapper.cpuWriteTranslate (m : Mapper) (_c : CartState) (_addr : Addr) : Option Nat :=
  match m with
  | .directMap => none

/-- `video_read_translate` (R60): 0x0000-0x1FFF, one to one. -/
def Mapper.videoReadTranslate (m : Mapper) (_c : CartState) (addr : Addr) : Option Nat :=
  match m with
  | .directMap => if addr ≤ Config.chrWindowTop then some addr.toNat else none

/-- `video_write_translate` (R61): the same range, and only where the character store is RAM. -/
def Mapper.videoWriteTranslate (m : Mapper) (c : CartState) (addr : Addr) : Option Nat :=
  match m with
  | .directMap => if addr ≤ Config.chrWindowTop ∧ c.chrIsRam = true then some addr.toNat else none

/-- The mapper's `reset` (R62): the direct map carries no banking state, so nothing changes. -/
def Mapper.reset (m : Mapper) (c : CartState) : CartState :=
  match m with
  | .directMap => c

/-- The mapper that answers for a cartridge: none for an invalid one, which declines every access (R68). That a valid cartridge
with an unregistered identifier declines too is log 11; Load builds none (R71). -/
def CartState.mapper (c : CartState) : Option Mapper :=
  if c.valid = true then mapperOf c.mapperId else none

/-- `Cart.cpu_read` (R63): the program byte at the translated offset; an offset out of bounds is a decline (D19). -/
def CartState.cpuRead (c : CartState) (addr : Addr) : Option Byte :=
  match c.mapper with
  | none => none
  | some m =>
    match m.cpuReadTranslate c addr with
    | none => none
    | some off => c.prg[off]?

/-- `Cart.cpu_write` (R64): claimed or not, and the cartridge after it. With the direct map it is never claimed; the claimed
branch, which no state reaches, changes nothing (log 11). -/
def CartState.cpuWrite (c : CartState) (addr : Addr) (_v : Byte) : Bool × CartState :=
  match c.mapper with
  | none => (false, c)
  | some m =>
    match m.cpuWriteTranslate c addr with
    | none => (false, c)
    | some _ => (true, c)

/-- `Cart.video_read` (R65). -/
def CartState.videoRead (c : CartState) (addr : Addr) : Option Byte :=
  match c.mapper with
  | none => none
  | some m =>
    match m.videoReadTranslate c addr with
    | none => none
    | some off => c.chr[off]?

/-- `Cart.video_write` (R66): claimed or not, and the cartridge after it. -/
def CartState.videoWrite (c : CartState) (addr : Addr) (v : Byte) : Bool × CartState :=
  match c.mapper with
  | none => (false, c)
  | some m =>
    match m.videoWriteTranslate c addr with
    | none => (false, c)
    | some off => if off < c.chr.length then (true, { c with chr := c.chr.set off v }) else (false, c)

/-- `Cart.reset` (R67): forwarded to the mapper, and nothing else. -/
def CartState.reset (c : CartState) : CartState :=
  match c.mapper with
  | none => c
  | some m => m.reset c

end Sys2Proof.Machine
end

