-- ==== Sys2Proof/Machine/Flags.lean ====
section
/-! DEFINITION. The flag function and the status byte. -/

namespace Sys2Proof.Machine

/-- `SetZN(v)` (40_fetch_decode_addressing.md R131): Z and N from the value written, no other flag. -/
def Flags.setZN (f : Flags) (v : Byte) : Flags :=
  { f with z := v == 0x00, n := v.getLsbD 7 }

/-- A flag as bit `k` of a byte, by an integer shift (10_state.md R31). -/
def flagBit (f : Bool) (k : Nat) : Byte := (if f then 1#8 else 0#8) <<< k

/-- `PackP()` (10_state.md R31, D2; log 6): N V U B D I Z C, bit 7 down to bit 0, B and U as stored (D3). -/
def Flags.pack (f : Flags) : Byte :=
  flagBit f.n 7 ||| flagBit f.v 6 ||| flagBit f.u 5 ||| flagBit f.b 4 |||
  flagBit f.d 3 ||| flagBit f.i 2 ||| flagBit f.z 1 ||| flagBit f.c 0

/-- `UnpackP(b)` (10_state.md R32): every flag is overwritten from its bit, never ORed. -/
def Flags.unpack (b : Byte) : Flags where
  c := b.getLsbD 0
  z := b.getLsbD 1
  i := b.getLsbD 2
  d := b.getLsbD 3
  b := b.getLsbD 4
  u := b.getLsbD 5
  v := b.getLsbD 6
  n := b.getLsbD 7

end Sys2Proof.Machine
end

