-- ==== Sys2Proof/Machine/Ops.lean ====
section
/-! DEFINITION. The named operations over memory and registers: the AddressSpace, the CPU bus, fetch, the stack, reset, the one
exception, and the register file. -/

namespace Sys2Proof.Machine

/-- `v` widened with zero high bits (00_scope.md R10). -/
def zext16 (v : Byte) : Addr := v.setWidth 16

/-- The byte at an address: the listed one, else the unwritten byte. -/
def Memory.read : Memory → Nat → Byte
  | [], _ => Config.unwrittenByte
  | (b, w) :: m, a => if a = b then w else Memory.read m a

/-- Sets the byte at an address and keeps the canonical form: writing the unwritten byte removes the entry. -/
def Memory.write : Memory → Nat → Byte → Memory
  | [], a, v => if v = Config.unwrittenByte then [] else [(a, v)]
  | (b, w) :: m, a, v =>
    if a < b then (if v = Config.unwrittenByte then (b, w) :: m else (a, v) :: (b, w) :: m)
    else if a = b then (if v = Config.unwrittenByte then m else (b, v) :: m)
    else (b, w) :: Memory.write m a v

/-- `Space[addr]` (00_scope.md R12), which is also the host's raw `read(addr)` (60_exceptions.md R232): no cartridge routing. -/
def State.rawRead (s : State) (addr : Addr) : Byte := Memory.read s.space addr.toNat

/-- `Space[addr] <- v`, the host's raw `write(addr, byte)` (60_exceptions.md R232). -/
def State.rawWrite (s : State) (addr : Addr) (v : Byte) : State :=
  { s with space := Memory.write s.space addr.toNat v }

/-- What the attached cartridge, if any, answers to a CPU read (20_memory.md R63). -/
def State.cartRead (s : State) (addr : Addr) : Option Byte :=
  match s.cart with
  | none => none
  | some c => c.cpuRead addr

/-- `MemRead(addr, 1)`, the CPU bus (20_memory.md R50): the cartridge first, then the AddressSpace. It changes no state. -/
def State.memRead (s : State) (addr : Addr) : Byte :=
  match s.cartRead addr with
  | some b => b
  | none => s.rawRead addr

/-- `MemRead(addr, 2)` (20_memory.md R52): low byte first, the second address wrapping. -/
def State.memReadWord (s : State) (addr : Addr) : Addr :=
  wordOf (s.memRead addr) (s.memRead (addr + 1))

/-- `MemWrite(addr, 1, v)`, the CPU bus (20_memory.md R51): the cartridge first; a declined write goes to the AddressSpace. -/
def State.memWrite (s : State) (addr : Addr) (v : Byte) : State :=
  match s.cart with
  | none => s.rawWrite addr v
  | some c =>
    match c.cpuWrite addr v with
    | (true, c') => { s with cart := some c' }
    | (false, _) => s.rawWrite addr v

/-- PC moved past `n` bytes, modulo 65536 (10_state.md R25). -/
def State.advance (s : State) (n : Nat) : State := { s with pc := s.pc + BitVec.ofNat 16 n }

/-- `FetchByte()` (40_fetch_decode_addressing.md R122). -/
def State.fetchByte (s : State) : Byte × State := (s.memRead s.pc, s.advance 1)

/-- `FetchWord()` (40_fetch_decode_addressing.md R123): low byte first. -/
def State.fetchWord (s : State) : Addr × State :=
  let (lo, s1) := s.fetchByte
  let (hi, s2) := s1.fetchByte
  (wordOf lo hi, s2)

/-- `n` times `FetchByte()`: the bytes in increasing address order (30_encoding.md R101). -/
def State.fetchBytes : Nat → State → List Byte × State
  | 0, s => ([], s)
  | n + 1, s =>
    let (b, s1) := s.fetchByte
    let (bs, s2) := State.fetchBytes n s1
    (b :: bs, s2)

/-- The instruction at PC, or the opcode byte that is none. The opcode byte is read first and selects the length; for an unknown
one no operand byte is read (40_fetch_decode_addressing.md R120, R121; 30_encoding.md R108). -/
def fetchInstr (s : State) : Except Byte Instr :=
  let op := s.memRead s.pc
  match lookup op with
  | none => .error op
  | some row =>
    match decode (s.fetchBytes row.mode.length).1 with
    | .ok (i, _) => .ok i
    | .error _ => .error op

/-- Taking the block's one exception (60_exceptions.md R220, R227): nothing is saved or pushed, no flag changes, no vector is
read, PC is not redirected and no state changes; the step's result carries the opcode byte. There is no return from it (R228). -/
def raiseUnknownOpcode (op : Byte) : Result := .fault (.unknownOpcode op)

/-- A register's value (10_state.md R24: no register reads as a constant). -/
def State.reg (s : State) : Reg → Byte
  | .a => s.a
  | .x => s.x
  | .y => s.y
  | .sp => s.sp

/-- A register written (10_state.md R24: no alias, no register discards a write). -/
def State.setReg (s : State) (r : Reg) (v : Byte) : State :=
  match r with
  | .a => { s with a := v }
  | .x => { s with x := v }
  | .y => { s with y := v }
  | .sp => { s with sp := v }

/-- `SetZN(v)` on the state (40_fetch_decode_addressing.md R131). -/
def State.setZN (s : State) (v : Byte) : State := { s with flags := s.flags.setZN v }

/-- The current stack address, always in 0x0100-0x01FF (10_state.md R26). -/
def State.stackAddr (s : State) : Addr := Config.stackBase + zext16 s.sp

/-- `Push(v)` (10_state.md R27): write, then decrement SP modulo 256. -/
def State.push (s : State) (v : Byte) : State :=
  let s1 := s.memWrite s.stackAddr v
  { s1 with sp := s1.sp - 1 }

/-- `Pull()` (10_state.md R28): increment SP modulo 256, then read. -/
def State.pull (s : State) : Byte × State :=
  let s1 := { s with sp := s.sp + 1 }
  (s1.memRead s1.stackAddr, s1)

/-- CPU `reset()` (70_reset_and_hazards.md R240): registers and flags only; PC from the reset vector through the CPU bus. The
AddressSpace and the cartridge are left alone (R241, R242, D24). -/
def State.cpuReset (s : State) : State :=
  { s with
    a := 0x00
    x := 0x00
    y := 0x00
    sp := Config.resetSp
    flags := Flags.reset
    pc := s.memReadWord Config.resetVector }

/-- Construction of a session (70_reset_and_hazards.md R241): the AddressSpace all 0x00, the cartridge given, then CPU reset. -/
def construct (cart : Option CartState) : State := State.cpuReset { State.reset with cart := cart }

/-- Places a byte where a CPU read of `addr` finds it: in the program buffer where the cartridge claims the address, else in
the AddressSpace. No operation of the machine: it stands for the program being put there from outside (70_reset_and_hazards.md
R244; log 9). -/
def State.placeByte (s : State) (addr : Addr) (v : Byte) : State :=
  match s.cart with
  | none => s.rawWrite addr v
  | some c =>
    match c.mapper with
    | none => s.rawWrite addr v
    | some m =>
      match m.cpuReadTranslate c addr with
      | none => s.rawWrite addr v
      | some off =>
        match c.prg[off]? with
        | none => s.rawWrite addr v
        | some _ => { s with cart := some { c with prg := c.prg.set off v } }

/-- Places bytes at consecutive addresses, wrapping at 0xFFFF. -/
def State.placeBytes (s : State) (addr : Addr) : List Byte → State
  | [] => s
  | b :: bs => State.placeBytes (s.placeByte addr b) (addr + 1) bs

end Sys2Proof.Machine
end

