-- ==== Sys2Proof/Machine/Operands.lean ====
section
/-! DEFINITION. The addressing modes (40_fetch_decode_addressing.md R124-R130), from the operand fields that decoding read. -/

namespace Sys2Proof.Machine

/-- ZP (R125): always in page 0x00. -/
def eaZp (zp8 : Byte) : Addr := zext16 zp8

/-- ZPX and ZPY (R126, R127): the 8-bit sum wraps inside page 0x00. -/
def eaZpIndexed (zp8 index : Byte) : Addr := zext16 (zp8 + index)

/-- ABS (R125). -/
def eaAbs (base16 : Addr) : Addr := base16

/-- ABSX and ABSY (R128, R129): the full 16-bit sum, never truncated to 8 bits (C5), wrapping past 0xFFFF (D10). -/
def eaAbsIndexed (base16 : Addr) (index : Byte) : Addr := base16 + zext16 index

/-- `b[15:8] != a[15:8]` (R128, R129): the indexed address left the base's page. -/
def pageCrossed (base16 ea : Addr) : Bool := hiByte base16 != hiByte ea

/-- What `Resolve(mode)` returns. -/
inductive Operand where
  /-- IMP: no operand -/
  | none
  /-- IMM: a value -/
  | val (v : Byte)
  /-- the others: an effective address, and whether indexing crossed a page -/
  | ea (a : Addr) (crossed : Bool)
  deriving DecidableEq, Repr

/-- ABSX and ABSY with the crossing bit (R128, R129). -/
def resolveAbsIndexed (base16 : Addr) (index : Byte) : Operand :=
  .ea (eaAbsIndexed base16 index) (pageCrossed base16 (eaAbsIndexed base16 index))

/-- `Resolve(mode)` of a decoded instruction (R124-R129). -/
def resolve (i : Instr) (s : State) : Operand :=
  match i with
  | .ldaImm v | .ldxImm v | .ldyImm v => .val v
  | .ldaZp v | .ldxZp v | .ldyZp v | .staZp v | .stxZp v | .styZp v => .ea (eaZp v) false
  | .ldaZpx v | .ldyZpx v | .staZpx v | .styZpx v => .ea (eaZpIndexed v s.x) false
  | .ldxZpy v | .stxZpy v => .ea (eaZpIndexed v s.y) false
  | .ldaAbs b | .ldxAbs b | .ldyAbs b | .staAbs b | .stxAbs b | .styAbs b => .ea (eaAbs b) false
  | .ldaAbsx b | .ldyAbsx b | .staAbsx b => resolveAbsIndexed b s.x
  | .ldaAbsy b | .ldxAbsy b | .staAbsy b => resolveAbsIndexed b s.y
  | .tax | .tay | .txa | .tya | .tsx | .txs | .pha | .php | .pla | .plp => .none

end Sys2Proof.Machine
end

