-- ==== Sys2Proof/Machine/Load.lean ====
section
/-! DEFINITION. The load family (41_load.md): LDA, LDX, LDY. -/

namespace Sys2Proof.Machine

/-- `Load(dst, mode)` once the value is read (R150): the destination, then Z and N from the value. -/
def State.load (s : State) (dst : Reg) (v : Byte) : State := (s.setReg dst v).setZN v

/-- LDA #$nn (R151). -/
def execLdaImm (imm8 : Byte) (s : State) : Result := .next ((s.advance 2).load .a imm8)
/-- LDA $nn (R152). -/
def execLdaZp (zp8 : Byte) (s : State) : Result := .next ((s.advance 2).load .a (s.memRead (eaZp zp8)))
/-- LDA $nn,X (R153). -/
def execLdaZpx (zp8 : Byte) (s : State) : Result := .next ((s.advance 2).load .a (s.memRead (eaZpIndexed zp8 s.x)))
/-- LDA $nnnn (R154). -/
def execLdaAbs (base16 : Addr) (s : State) : Result := .next ((s.advance 3).load .a (s.memRead (eaAbs base16)))
/-- LDA $nnnn,X (R155). -/
def execLdaAbsx (base16 : Addr) (s : State) : Result :=
  .next ((s.advance 3).load .a (s.memRead (eaAbsIndexed base16 s.x)))
/-- LDA $nnnn,Y (R156). -/
def execLdaAbsy (base16 : Addr) (s : State) : Result :=
  .next ((s.advance 3).load .a (s.memRead (eaAbsIndexed base16 s.y)))

/-- LDX #$nn (R157). -/
def execLdxImm (imm8 : Byte) (s : State) : Result := .next ((s.advance 2).load .x imm8)
/-- LDX $nn (R158). -/
def execLdxZp (zp8 : Byte) (s : State) : Result := .next ((s.advance 2).load .x (s.memRead (eaZp zp8)))
/-- LDX $nn,Y (R159). -/
def execLdxZpy (zp8 : Byte) (s : State) : Result := .next ((s.advance 2).load .x (s.memRead (eaZpIndexed zp8 s.y)))
/-- LDX $nnnn (R160). -/
def execLdxAbs (base16 : Addr) (s : State) : Result := .next ((s.advance 3).load .x (s.memRead (eaAbs base16)))
/-- LDX $nnnn,Y (R161). -/
def execLdxAbsy (base16 : Addr) (s : State) : Result :=
  .next ((s.advance 3).load .x (s.memRead (eaAbsIndexed base16 s.y)))

/-- LDY #$nn (R162). -/
def execLdyImm (imm8 : Byte) (s : State) : Result := .next ((s.advance 2).load .y imm8)
/-- LDY $nn (R163). -/
def execLdyZp (zp8 : Byte) (s : State) : Result := .next ((s.advance 2).load .y (s.memRead (eaZp zp8)))
/-- LDY $nn,X (R164). -/
def execLdyZpx (zp8 : Byte) (s : State) : Result := .next ((s.advance 2).load .y (s.memRead (eaZpIndexed zp8 s.x)))
/-- LDY $nnnn (R165). -/
def execLdyAbs (base16 : Addr) (s : State) : Result := .next ((s.advance 3).load .y (s.memRead (eaAbs base16)))
/-- LDY $nnnn,X (R166). -/
def execLdyAbsx (base16 : Addr) (s : State) : Result :=
  .next ((s.advance 3).load .y (s.memRead (eaAbsIndexed base16 s.x)))

end Sys2Proof.Machine
end

