-- ==== Sys2Proof/Machine/Stack.lean ====
section
/-! DEFINITION. The stack family (44_stack.md): PHA, PHP, PLA, PLP. -/

namespace Sys2Proof.Machine

/-- PHA (R211). -/
def execPha (s : State) : Result := .next ((s.advance 1).push s.a)
/-- PHP (R212): the eight flags packed, B and U as stored. -/
def execPhp (s : State) : Result := .next ((s.advance 1).push s.flags.pack)
/-- PLA (R213). -/
def execPla (s : State) : Result :=
  let (v, s1) := (s.advance 1).pull
  .next ((s1.setReg .a v).setZN v)
/-- PLP (R214): all eight flags overwritten. -/
def execPlp (s : State) : Result :=
  let (b, s1) := (s.advance 1).pull
  .next { s1 with flags := Flags.unpack b }

end Sys2Proof.Machine
end

