-- ==== Sys2Proof/Machine/Store.lean ====
section
/-! DEFINITION. The store family (42_store.md): STA, STX, STY. -/

namespace Sys2Proof.Machine

/-- `Store(src, mode)` at the resolved address (R180): one byte to the CPU bus, no flag, no register. -/
def State.store (s : State) (src : Reg) (ea : Addr) : State := s.memWrite ea (s.reg src)

/-- STA $nn (R181). -/
def execStaZp (zp8 : Byte) (s : State) : Result := .next ((s.advance 2).store .a (eaZp zp8))
/-- STA $nn,X (R182). -/
def execStaZpx (zp8 : Byte) (s : State) : Result := .next ((s.advance 2).store .a (eaZpIndexed zp8 s.x))
/-- STA $nnnn (R183). -/
def execStaAbs (base16 : Addr) (s : State) : Result := .next ((s.advance 3).store .a (eaAbs base16))
/-- STA $nnnn,X (R184). -/
def execStaAbsx (base16 : Addr) (s : State) : Result := .next ((s.advance 3).store .a (eaAbsIndexed base16 s.x))
/-- STA $nnnn,Y (R185). -/
def execStaAbsy (base16 : Addr) (s : State) : Result := .next ((s.advance 3).store .a (eaAbsIndexed base16 s.y))

/-- STX $nn (R186). -/
def execStxZp (zp8 : Byte) (s : State) : Result := .next ((s.advance 2).store .x (eaZp zp8))
/-- STX $nn,Y (R187). -/
def execStxZpy (zp8 : Byte) (s : State) : Result := .next ((s.advance 2).store .x (eaZpIndexed zp8 s.y))
/-- STX $nnnn (R188). -/
def execStxAbs (base16 : Addr) (s : State) : Result := .next ((s.advance 3).store .x (eaAbs base16))

/-- STY $nn (R189). -/
def execStyZp (zp8 : Byte) (s : State) : Result := .next ((s.advance 2).store .y (eaZp zp8))
/-- STY $nn,X (R190). -/
def execStyZpx (zp8 : Byte) (s : State) : Result := .next ((s.advance 2).store .y (eaZpIndexed zp8 s.x))
/-- STY $nnnn (R191). -/
def execStyAbs (base16 : Addr) (s : State) : Result := .next ((s.advance 3).store .y (eaAbs base16))

end Sys2Proof.Machine
end

