-- ==== Sys2Proof/Machine/Transfer.lean ====
section
/-! DEFINITION. The transfer family (43_transfer.md): TAX, TAY, TXA, TYA, TSX, TXS. -/

namespace Sys2Proof.Machine

/-- `Transfer(src, dst)` (R200): Z and N from the value moved, unless the destination is SP (C2 for TAY). -/
def State.transfer (s : State) (src dst : Reg) : State :=
  let v := s.reg src
  let s1 := s.setReg dst v
  if dst = .sp then s1 else s1.setZN v

/-- TAX (R201). -/
def execTax (s : State) : Result := .next ((s.advance 1).transfer .a .x)
/-- TAY (R202). -/
def execTay (s : State) : Result := .next ((s.advance 1).transfer .a .y)
/-- TXA (R203). -/
def execTxa (s : State) : Result := .next ((s.advance 1).transfer .x .a)
/-- TYA (R204). -/
def execTya (s : State) : Result := .next ((s.advance 1).transfer .y .a)
/-- TSX (R205). -/
def execTsx (s : State) : Result := .next ((s.advance 1).transfer .sp .x)
/-- TXS (R206): no flag is written. -/
def execTxs (s : State) : Result := .next ((s.advance 1).transfer .x .sp)

end Sys2Proof.Machine
end

