-- ==== Sys2Proof/Machine/Dispatch.lean ====
section
/-! DEFINITION. One arm per instruction (30_encoding.md R106), each a call of its meaning. -/

namespace Sys2Proof.Machine

def exec (i : Instr) (s : State) : Host.Outcome State Fault Refusal :=
  match i with
  | .ldaImm imm8 => Sys2Proof.Machine.execLdaImm imm8 s
  | .ldaZp zp8 => Sys2Proof.Machine.execLdaZp zp8 s
  | .ldaZpx zp8 => Sys2Proof.Machine.execLdaZpx zp8 s
  | .ldaAbs base16 => Sys2Proof.Machine.execLdaAbs base16 s
  | .ldaAbsx base16 => Sys2Proof.Machine.execLdaAbsx base16 s
  | .ldaAbsy base16 => Sys2Proof.Machine.execLdaAbsy base16 s
  | .ldxImm imm8 => Sys2Proof.Machine.execLdxImm imm8 s
  | .ldxZp zp8 => Sys2Proof.Machine.execLdxZp zp8 s
  | .ldxZpy zp8 => Sys2Proof.Machine.execLdxZpy zp8 s
  | .ldxAbs base16 => Sys2Proof.Machine.execLdxAbs base16 s
  | .ldxAbsy base16 => Sys2Proof.Machine.execLdxAbsy base16 s
  | .ldyImm imm8 => Sys2Proof.Machine.execLdyImm imm8 s
  | .ldyZp zp8 => Sys2Proof.Machine.execLdyZp zp8 s
  | .ldyZpx zp8 => Sys2Proof.Machine.execLdyZpx zp8 s
  | .ldyAbs base16 => Sys2Proof.Machine.execLdyAbs base16 s
  | .ldyAbsx base16 => Sys2Proof.Machine.execLdyAbsx base16 s
  | .staZp zp8 => Sys2Proof.Machine.execStaZp zp8 s
  | .staZpx zp8 => Sys2Proof.Machine.execStaZpx zp8 s
  | .staAbs base16 => Sys2Proof.Machine.execStaAbs base16 s
  | .staAbsx base16 => Sys2Proof.Machine.execStaAbsx base16 s
  | .staAbsy base16 => Sys2Proof.Machine.execStaAbsy base16 s
  | .stxZp zp8 => Sys2Proof.Machine.execStxZp zp8 s
  | .stxZpy zp8 => Sys2Proof.Machine.execStxZpy zp8 s
  | .stxAbs base16 => Sys2Proof.Machine.execStxAbs base16 s
  | .styZp zp8 => Sys2Proof.Machine.execStyZp zp8 s
  | .styZpx zp8 => Sys2Proof.Machine.execStyZpx zp8 s
  | .styAbs base16 => Sys2Proof.Machine.execStyAbs base16 s
  | .tax => Sys2Proof.Machine.execTax s
  | .tay => Sys2Proof.Machine.execTay s
  | .txa => Sys2Proof.Machine.execTxa s
  | .tya => Sys2Proof.Machine.execTya s
  | .tsx => Sys2Proof.Machine.execTsx s
  | .txs => Sys2Proof.Machine.execTxs s
  | .pha => Sys2Proof.Machine.execPha s
  | .php => Sys2Proof.Machine.execPhp s
  | .pla => Sys2Proof.Machine.execPla s
  | .plp => Sys2Proof.Machine.execPlp s

end Sys2Proof.Machine
end

