-- ==== Sys2Proof/Machine/Step.lean ====
section
/-! DEFINITION. One step (40_fetch_decode_addressing.md R120), and the placing of a word where the next step fetches. -/

namespace Sys2Proof.Machine

/-- `step()`: the instruction at PC is executed, or UnknownOpcode is raised with no state change. The cycle count that the call
returns beside the state is `cycles`; the whole reply of the call is `hostCall .step` (log 2). -/
def step (s : State) : Host.Outcome State Fault Refusal :=
  match fetchInstr s with
  | .error op => raiseUnknownOpcode op
  | .ok i => exec i s

/-- `s` with the instruction of a table word stored at PC, in the three bytes from there (log 9). -/
def State.withFetchWord (s : State) (nbits w : Nat) : State := s.placeBytes s.pc (tableBytes nbits w)

end Sys2Proof.Machine
end

