-- ==== Sys2Proof/Machine/Assembler.lean ====
section
/-! DEFINITION. The assembler syntax of 30_encoding.md R109 and the `.byte` notation of R110, as lists of characters. -/

namespace Sys2Proof.Machine

/-- A mnemonic's three letters (00_scope.md R18). -/
def mnemonicText : Mnemonic → List Char
  | .lda => ['L', 'D', 'A'] | .ldx => ['L', 'D', 'X'] | .ldy => ['L', 'D', 'Y']
  | .sta => ['S', 'T', 'A'] | .stx => ['S', 'T', 'X'] | .sty => ['S', 'T', 'Y']
  | .tax => ['T', 'A', 'X'] | .tay => ['T', 'A', 'Y'] | .txa => ['T', 'X', 'A']
  | .tya => ['T', 'Y', 'A'] | .tsx => ['T', 'S', 'X'] | .txs => ['T', 'X', 'S']
  | .pha => ['P', 'H', 'A'] | .php => ['P', 'H', 'P'] | .pla => ['P', 'L', 'A'] | .plp => ['P', 'L', 'P']

/-- Every mnemonic. -/
def allMnemonics : List Mnemonic :=
  [.lda, .ldx, .ldy, .sta, .stx, .sty, .tax, .tay, .txa, .tya, .tsx, .txs, .pha, .php, .pla, .plp]

/-- The mnemonic that three letters spell. -/
def readMnemonic (t : List Char) : Option Mnemonic := allMnemonics.find? fun m => mnemonicText m == t

/-- The hexadecimal digits, upper case as in R109's examples (log 13). -/
def hexDigits : List Char := ['0', '1', '2', '3', '4', '5', '6', '7', '8', '9', 'A', 'B', 'C', 'D', 'E', 'F']

/-- The digit of a number below 16. -/
def hexDigit (n : Nat) : Char := hexDigits.getD n '0'

/-- The number of a digit. -/
def readHexDigit (c : Char) : Option Nat :=
  let k := hexDigits.findIdx (· == c)
  if k < 16 then some k else none

/-- The two digits of a byte. -/
def hexByte (b : Byte) : List Char := [hexDigit (b.toNat / 16), hexDigit (b.toNat % 16)]

/-- Two digits as a byte. -/
def readHexByte (h l : Char) : Option Byte :=
  match readHexDigit h, readHexDigit l with
  | some m, some n => some (BitVec.ofNat 8 (16 * m + n))
  | _, _ => none

/-- The operand part of a line (R109): its format and its operand bytes, low byte first. Two digits select a zero-page form,
four an absolute form, even when the value is below 0x100. -/
def readOperand : List Char → Option (Mode × List Byte)
  | [] => some (.imp, [])
  | [' ', '#', '$', h, l] => (readHexByte h l).map fun b => (.imm, [b])
  | [' ', '$', h, l] => (readHexByte h l).map fun b => (.zp, [b])
  | [' ', '$', h, l, ',', 'X'] => (readHexByte h l).map fun b => (.zpx, [b])
  | [' ', '$', h, l, ',', 'Y'] => (readHexByte h l).map fun b => (.zpy, [b])
  | [' ', '$', h, l, h', l'] => (readHexByte h l).bind fun hi => (readHexByte h' l').map fun lo => (.abs, [lo, hi])
  | [' ', '$', h, l, h', l', ',', 'X'] =>
    (readHexByte h l).bind fun hi => (readHexByte h' l').map fun lo => (.absx, [lo, hi])
  | [' ', '$', h, l, h', l', ',', 'Y'] =>
    (readHexByte h l).bind fun hi => (readHexByte h' l').map fun lo => (.absy, [lo, hi])
  | _ => none

/-- The opcode byte of a mnemonic-mode pair; none for a pair not in R106, which an assembler must refuse (R109). -/
def opcodeOf (m : Mnemonic) (mode : Mode) : Option Byte :=
  (opcodeTable.find? fun row => row.mnemonic == m && row.mode == mode).map (·.opcode)

/-- One source line to its bytes (R109, R110), or none for a line that is refused. -/
def assemble (line : List Char) : Option (List Byte) :=
  match line with
  | ['.', 'b', 'y', 't', 'e', ' ', '$', h, l] => (readHexByte h l).map fun b => [b]
  | a :: b :: c :: rest =>
    (readMnemonic [a, b, c]).bind fun m =>
      (readOperand rest).bind fun (mode, bytes) =>
        (opcodeOf m mode).map fun op => op :: bytes
  | _ => none

/-- The operand part of an instruction's line, from its format and operand bytes (R109). -/
def operandText : Mode → List Byte → List Char
  | .imm, [b] => [' ', '#', '$'] ++ hexByte b
  | .zp, [b] => [' ', '$'] ++ hexByte b
  | .zpx, [b] => [' ', '$'] ++ hexByte b ++ [',', 'X']
  | .zpy, [b] => [' ', '$'] ++ hexByte b ++ [',', 'Y']
  | .abs, [lo, hi] => [' ', '$'] ++ hexByte hi ++ hexByte lo
  | .absx, [lo, hi] => [' ', '$'] ++ hexByte hi ++ hexByte lo ++ [',', 'X']
  | .absy, [lo, hi] => [' ', '$'] ++ hexByte hi ++ hexByte lo ++ [',', 'Y']
  | _, _ => []

/-- An instruction written as R109 writes it. -/
def asmText (i : Instr) : List Char := mnemonicText i.mnemonic ++ operandText i.mode (encode i).tail

end Sys2Proof.Machine
end

