-- ==== Sys2Proof/Machine/CartLoad.lean ====
section
/-! DEFINITION. Cartridge load (20_memory.md R69-R73): a file becomes a cartridge or a LoadError. It is no step of the CORE. -/

namespace Sys2Proof.Machine

/-- Why a load fails (R71, R72): the source's three causes. -/
inductive LoadError where
  | openFailed
  | truncated
  | unknownMapper
  deriving DecidableEq, Repr

/-- What `Load` returns (R72, R14): a cartridge, and the reason when the load failed; the cartridge is then invalid. -/
structure LoadResult where
  cart  : CartState
  error : Option LoadError
  deriving DecidableEq, Repr

/-- The cartridge a failed load leaves (R72, R68). Only `valid` matters: every access is declined. The other fields are those of
a cartridge without banks, so that the lengths are as R35 says (log 10). -/
def CartState.invalid : CartState where
  valid := false
  mapperId := Config.directMapId
  prgBanks := 0
  chrBanks := 0
  prg := []
  chr := List.replicate Config.chrRamSize 0
  chrIsRam := true

/-- A failed load. -/
def LoadResult.failed (e : LoadError) : LoadResult := ⟨CartState.invalid, some e⟩

/-- Header byte `k` of a file at least a header long (R69). -/
def headerByte (file : List Byte) (k : Nat) : Byte := file.getD k 0

/-- `mapper_id = (H[7] & 0xF0) | (H[6] >> 4)` (R70, D16; log 7). -/
def headerMapperId (file : List Byte) : Byte :=
  (headerByte file 7 &&& 0xF0) ||| (headerByte file 6 >>> 4)

/-- Where the program data begins: after the header, and after the trainer iff bit 2 of byte 6 is set (R69, R71). -/
def prgStart (file : List Byte) : Nat :=
  if (headerByte file 6).getLsbD 2 = true then Config.headerSize + Config.trainerSize else Config.headerSize

/-- Bytes of program data the header declares (R71). -/
def prgLength (file : List Byte) : Nat := Config.prgBankSize * (headerByte file 4).toNat

/-- Bytes of character data the header declares (R71). -/
def chrLength (file : List Byte) : Nat := Config.chrBankSize * (headerByte file 5).toNat

/-- The character store: RAM of zeros when no bank is declared, else the bytes after the program data (R71, D18). -/
def loadedChr (file : List Byte) : List Byte :=
  if headerByte file 5 = 0 then List.replicate Config.chrRamSize 0
  else (file.drop (prgStart file + prgLength file)).take (chrLength file)

/-- The cartridge of a file that passes every check (R71). The magic, bytes 8 to 15 and the bytes after the character data are
not looked at (D17). -/
def loadedCart (file : List Byte) : CartState where
  valid := true
  mapperId := headerMapperId file
  prgBanks := headerByte file 4
  chrBanks := headerByte file 5
  prg := (file.drop (prgStart file)).take (prgLength file)
  chr := loadedChr file
  chrIsRam := decide (headerByte file 5 = 0)

/-- `Load(F, L)` (R71), its checks in the order the rule gives (log 8). `none` is a file that cannot be opened. -/
def load : Option (List Byte) → LoadResult
  | none => .failed .openFailed
  | some file =>
    if file.length < Config.headerSize then .failed .truncated
    else if file.length < prgStart file + prgLength file + chrLength file then .failed .truncated
    else if mapperOf (headerMapperId file) = none then .failed .unknownMapper
    else ⟨loadedCart file, none⟩

end Sys2Proof.Machine
end

