-- ==== Sys2Proof/Machine/Cycles.lean ====
section
/-! DEFINITION. The cycle count `step()` returns (40_fetch_decode_addressing.md R140, R141). It is an output: no state depends on
it and none holds it (D28; log 2). -/

namespace Sys2Proof.Machine

/-- `base(op)`: the cycle column of the opcode table (30_encoding.md R106). Every instruction has a row. -/
def baseCycles (i : Instr) : Nat :=
  match lookup i.opcode with
  | some row => row.cycles
  | none => 0

/-- LDA, LDX, LDY: the loads of R140. -/
def Mnemonic.isLoad : Mnemonic → Bool
  | .lda | .ldx | .ldy => true
  | .sta | .stx | .sty | .tax | .tay | .txa | .tya | .tsx | .txs | .pha | .php | .pla | .plp => false

/-- `Extra(op, operand)` (R140): one cycle for a load in ABSX or ABSY whose indexing crossed a page. -/
def extraCycles (i : Instr) (s : State) : Nat :=
  match resolve i s with
  | .ea _ true =>
    if Mnemonic.isLoad i.mnemonic = true ∧ (i.mode = .absx ∨ i.mode = .absy) then 1 else 0
  | _ => 0

/-- The cycles of the instruction executed in state `s` (R140). -/
def cycles (i : Instr) (s : State) : Nat := baseCycles i + extraCycles i s

end Sys2Proof.Machine
end

