-- ==== Sys2Proof/Machine/HostInterface.lean ====
section
/-! DEFINITION. The host interface: the complete set of calls of 60_exceptions.md R232, each a transition between steps
(20_memory.md R85). -/

namespace Sys2Proof.Machine

/-- A call the host can make (R232). -/
inductive HostCall where
  | step
  | reset
  | read (addr : Addr)
  | write (addr : Addr) (v : Byte)
  | cartCpuRead (addr : Addr)
  | cartCpuWrite (addr : Addr) (v : Byte)
  | cartVideoRead (addr : Addr)
  | cartVideoWrite (addr : Addr) (v : Byte)
  | cartReset
  /-- `none` is a file that cannot be opened -/
  | load (file : Option (List Byte))
  deriving DecidableEq, Repr

/-- What a call returns (00_scope.md R14). -/
inductive HostReply where
  /-- `Ok(cycles)` of `step()` -/
  | ok (cycles : Nat)
  /-- `UnknownOpcode(op)` of `step()` -/
  | unknownOpcode (op : Byte)
  /-- a step the model refuses; no step does -/
  | refused (r : Refusal)
  /-- a call that returns nothing -/
  | done
  /-- a raw read -/
  | byte (v : Byte)
  /-- a cartridge read: claimed with a byte, or declined -/
  | answer (r : Option Byte)
  /-- a cartridge write: claimed or declined -/
  | claimed (b : Bool)
  /-- a load -/
  | loaded (r : LoadResult)
  /-- a cartridge call with no cartridge attached: there is nothing to call (log 12) -/
  | noCartridge
  deriving DecidableEq, Repr

/-- `step()` as the caller sees it (40_fetch_decode_addressing.md R120): `Ok(cycles)` with the next state, or
`UnknownOpcode(op)` with the state unchanged (60_exceptions.md R220). -/
def callStep (s : State) : HostReply × State :=
  match fetchInstr s with
  | .error op => (.unknownOpcode op, s)
  | .ok i =>
    match exec i s with
    | .next t => (.ok (cycles i s), t)
    | .fault (.unknownOpcode op) => (.unknownOpcode op, s)
    | .refused r => (.refused r, s)

/-- A call of the attached cartridge; what it changes is the cartridge alone. -/
def State.callCart (s : State) (f : CartState → HostReply × CartState) : HostReply × State :=
  match s.cart with
  | none => (.noCartridge, s)
  | some c => ((f c).1, { s with cart := some (f c).2 })

/-- One host call: its reply and the state after it (R232). `Load` builds a cartridge and attaches none: a session is built with
it by `construct` (20_memory.md section 6; 70_reset_and_hazards.md R241). -/
def hostCall (call : HostCall) (s : State) : HostReply × State :=
  match call with
  | .step => callStep s
  | .reset => (.done, s.cpuReset)
  | .read addr => (.byte (s.rawRead addr), s)
  | .write addr v => (.done, s.rawWrite addr v)
  | .cartCpuRead addr => s.callCart fun c => (.answer (c.cpuRead addr), c)
  | .cartCpuWrite addr v => s.callCart fun c => (.claimed (c.cpuWrite addr v).1, (c.cpuWrite addr v).2)
  | .cartVideoRead addr => s.callCart fun c => (.answer (c.videoRead addr), c)
  | .cartVideoWrite addr v => s.callCart fun c => (.claimed (c.videoWrite addr v).1, (c.videoWrite addr v).2)
  | .cartReset => s.callCart fun c => (.done, c.reset)
  | .load file => (.loaded (load file), s)

end Sys2Proof.Machine
end

