-- ==== Sys2Proof/Safety.lean ====
section
/-! DEFINITION. The invariant of a session, and the runs that claims speak of. -/

namespace Sys2Proof.Machine

/-- What Load guarantees of a cartridge and nothing later changes (10_state.md R35; 20_memory.md R71, R73): the buffers have the
sizes the bank counts declare, the character store is RAM exactly when no bank is declared, and a valid cartridge has a
registered mapper. -/
def CartState.wf (c : CartState) : Bool :=
  decide (c.prg.length = Config.prgBankSize * c.prgBanks.toNat) &&
  decide (c.chr.length = if c.chrBanks = 0 then Config.chrRamSize else Config.chrBankSize * c.chrBanks.toNat) &&
  (c.chrIsRam == decide (c.chrBanks = 0)) &&
  (!c.valid || (mapperOf c.mapperId).isSome)

/-- The invariant: the AddressSpace is in its canonical form and the cartridge, if any, is as Load builds it. -/
def State.inv (s : State) : Bool :=
  Memory.wf s.space &&
  match s.cart with
  | none => true
  | some c => c.wf

/-- `k` steps from `s` end in `t`, none of them an UnknownOpcode (70_reset_and_hazards.md R246). -/
def runsTo (k : Nat) (s t : State) : Prop := Host.Core.run core k s = .next t

/-- A session's history: the states that host calls, steps among them, reach from a constructed session (60_exceptions.md R232;
70_reset_and_hazards.md R241, R244). -/
inductive Reachable : State → Prop where
  | construct (cart : Option CartState) (h : ∀ c, cart = some c → ∃ file, c = (load file).cart) : Reachable (construct cart)
  | call (call : HostCall) (s : State) (h : Reachable s) : Reachable (hostCall call s).2

end Sys2Proof.Machine
end

