-- ==== Sys2Proof/Certificates/Slice0/Obligations.lean ====
section
/-! DEFINITION. The statements for the provers. A docstring names the rule or section of spec/ that a statement formalises. Where a
clause rests on a decision `D<n>` of spec/92_eei_decisions.md, or on a rule that the spec marks as derived, the docstring says so
and names the log entry. -/

open Sys2Proof Sys2Proof.Machine

/-! ### Encoding (30_encoding.md) -/

/-- For every well-formed instruction, with every operand value, decoding its bytes gives it back and leaves the bytes after it
(30_encoding.md sections 1 and 2; the opcode bytes are the spec's decision D8, log 6). -/
def Obligations.DecodeInvertsEncode : Prop :=
  ∀ (i : Instr) (rest : List Byte), i.wellFormed = true → decode (encode i ++ rest) = .ok (i, rest)

/-- The other direction: bytes that decode to an instruction are its encoding, so that an instruction has one encoding and
decoding drops no bit (30_encoding.md sections 1 and 2; D8, log 6). -/
def Obligations.EncodeInvertsDecode : Prop :=
  ∀ (bytes : List Byte) (i : Instr) (rest : List Byte), decode bytes = .ok (i, rest) → encode i ++ rest = bytes

/-- A byte is refused as an unknown opcode exactly when no instruction's encoding begins with it, whatever follows
(30_encoding.md section 3; the admitted set is D7, log 6). -/
def Obligations.UnknownOpcodesAreTheUnassigned : Prop :=
  ∀ (op : Byte) (rest : List Byte),
    decode (op :: rest) = .error (.unknownOpcode op) ↔ ∀ i : Instr, (encode i).head? ≠ some op

/-- Byte 0 alone selects mnemonic, mode and length, whatever the operand bytes are (30_encoding.md section 1, a rule the spec
derives from its formats and its table). -/
def Obligations.OpcodeAloneSelectsForm : Prop :=
  ∀ (op : Byte) (r1 r2 : List Byte) (i j : Instr) (t1 t2 : List Byte),
    decode (op :: r1) = .ok (i, t1) → decode (op :: r2) = .ok (j, t2) →
      i.mnemonic = j.mnemonic ∧ i.mode = j.mode ∧ i.length = j.length ∧
        r1.length + 1 = i.length + t1.length ∧ r2.length + 1 = j.length + t2.length

/-- Words written out from the opcode map, one or two per family and one unknown byte (30_encoding.md section 2; D8, log 6). -/
def Obligations.WordsOfTheOpcodeMapDecode : Prop :=
  decode [0xA9, 0x7F] = .ok (.ldaImm 0x7F, []) ∧
  decode [0xAD, 0x34, 0x12] = .ok (.ldaAbs 0x1234, []) ∧
  decode [0xB6, 0xFF] = .ok (.ldxZpy 0xFF, []) ∧
  decode [0x99, 0x34, 0x12] = .ok (.staAbsy 0x1234, []) ∧
  decode [0x94, 0xFF] = .ok (.styZpx 0xFF, []) ∧
  decode [0xAA] = .ok (.tax, []) ∧
  decode [0x9A] = .ok (.txs, []) ∧
  decode [0x08] = .ok (.php, []) ∧
  decode [0x28] = .ok (.plp, []) ∧
  decode [0xFF] = .error (.unknownOpcode 0xFF)

/-- The assembler turns an instruction written in the syntax of 30_encoding.md section 4 into its encoding (the syntax is D30,
log 13). -/
def Obligations.AssemblerReadsTheSyntax : Prop :=
  ∀ i : Instr, assemble (asmText i) = some (encode i)

/-- The assembler refuses every mnemonic-mode pair that the opcode table lacks, whatever the operand (30_encoding.md section 4;
the pairs are D7, log 6). -/
def Obligations.AssemblerRefusesOtherPairs : Prop :=
  ∀ (m : Mnemonic) (mode : Mode) (operand : List Byte), operand.length + 1 = mode.length → admitted m mode = false →
    assemble (mnemonicText m ++ operandText mode operand) = none

/-! ### The step (40_fetch_decode_addressing.md, 60_exceptions.md) -/

/-- A step runs the decoded instruction: when the bytes at PC decode to `i`, a step is `exec i`, which itself moves PC past the
instruction (40_fetch_decode_addressing.md section 1). -/
def Obligations.StepRunsDecodedInstruction : Prop :=
  ∀ (s : State) (i : Instr) (rest : List Byte),
    decode [s.memRead s.pc, s.memRead (s.pc + 1), s.memRead (s.pc + 2)] = .ok (i, rest) → step s = exec i s

/-- An unassigned byte at PC raises UnknownOpcode with that byte, and the caller gets back the very state before the step
(60_exceptions.md section 1; that PC stays is D33 and C8, log 1). -/
def Obligations.UnassignedByteRaisesUnknownOpcode : Prop :=
  ∀ s : State, (∀ i : Instr, (encode i).head? ≠ some (s.memRead s.pc)) →
    step s = .fault (.unknownOpcode (s.memRead s.pc)) ∧
      hostCall .step s = (.unknownOpcode (s.memRead s.pc), s)

/-- UnknownOpcode is the only exception: a step goes on, whatever the registers, the addresses and the memory are, or its byte at
PC begins no instruction and the caller gets that byte and the state before the step (60_exceptions.md section 1; that nothing
changes, PC included, is D33; that the step answers it as a fault is the model's choice, log 1). -/
def Obligations.NoOtherException : Prop :=
  ∀ s : State,
    (∃ t n, step s = .next t ∧ hostCall .step s = (.ok n, t)) ∨
      ((∀ i : Instr, (encode i).head? ≠ some (s.memRead s.pc)) ∧
        step s = .fault (.unknownOpcode (s.memRead s.pc)) ∧
        hostCall .step s = (.unknownOpcode (s.memRead s.pc), s))

/-- The caller's `step()` returns the cycles of the instruction at PC with the state that the step leaves
(40_fetch_decode_addressing.md sections 1 and 6; the reply is the model's form, log 2). -/
def Obligations.CallerGetsCyclesAndNextState : Prop :=
  ∀ (s : State) (i : Instr) (rest : List Byte),
    decode [s.memRead s.pc, s.memRead (s.pc + 1), s.memRead (s.pc + 2)] = .ok (i, rest) →
      ∃ t, step s = .next t ∧ hostCall .step s = (.ok (cycles i s), t)

/-- Every instruction moves PC forward by its length, 1, 2 or 3, modulo 65536, and no other way (10_state.md section 3; the wrap
is D9, log 6). -/
def Obligations.PcAdvancesByLength : Prop :=
  ∀ (i : Instr) (s t : State), exec i s = .next t →
    t.pc = s.pc + BitVec.ofNat 16 i.length ∧ t.pc.toNat = (s.pc.toNat + i.length) % 65536 ∧
      1 ≤ i.length ∧ i.length ≤ 3

/-! ### What each instruction does: it completes in every state, with this result -/

/-- LDA in its six modes completes: A is the value, Z and N are set from it, PC moves by the length, nothing else changes
(41_load.md sections 1 and 2; address wraps D10, log 6). -/
def Obligations.LdaResults : Prop :=
  ∀ s : State,
    (∀ v : Byte, exec (.ldaImm v) s =
      .next { s with a := v, pc := s.pc + 2, flags := { s.flags with z := v == 0, n := v.getLsbD 7 } }) ∧
    (∀ zp : Byte, exec (.ldaZp zp) s =
      let v := s.memRead (zp.setWidth 16)
      .next { s with a := v, pc := s.pc + 2, flags := { s.flags with z := v == 0, n := v.getLsbD 7 } }) ∧
    (∀ zp : Byte, exec (.ldaZpx zp) s =
      let v := s.memRead ((zp + s.x).setWidth 16)
      .next { s with a := v, pc := s.pc + 2, flags := { s.flags with z := v == 0, n := v.getLsbD 7 } }) ∧
    (∀ b : Addr, exec (.ldaAbs b) s =
      let v := s.memRead b
      .next { s with a := v, pc := s.pc + 3, flags := { s.flags with z := v == 0, n := v.getLsbD 7 } }) ∧
    (∀ b : Addr, exec (.ldaAbsx b) s =
      let v := s.memRead (b + s.x.setWidth 16)
      .next { s with a := v, pc := s.pc + 3, flags := { s.flags with z := v == 0, n := v.getLsbD 7 } }) ∧
    (∀ b : Addr, exec (.ldaAbsy b) s =
      let v := s.memRead (b + s.y.setWidth 16)
      .next { s with a := v, pc := s.pc + 3, flags := { s.flags with z := v == 0, n := v.getLsbD 7 } })

/-- LDX in its five modes completes (41_load.md sections 1 and 3; D10, log 6). -/
def Obligations.LdxResults : Prop :=
  ∀ s : State,
    (∀ v : Byte, exec (.ldxImm v) s =
      .next { s with x := v, pc := s.pc + 2, flags := { s.flags with z := v == 0, n := v.getLsbD 7 } }) ∧
    (∀ zp : Byte, exec (.ldxZp zp) s =
      let v := s.memRead (zp.setWidth 16)
      .next { s with x := v, pc := s.pc + 2, flags := { s.flags with z := v == 0, n := v.getLsbD 7 } }) ∧
    (∀ zp : Byte, exec (.ldxZpy zp) s =
      let v := s.memRead ((zp + s.y).setWidth 16)
      .next { s with x := v, pc := s.pc + 2, flags := { s.flags with z := v == 0, n := v.getLsbD 7 } }) ∧
    (∀ b : Addr, exec (.ldxAbs b) s =
      let v := s.memRead b
      .next { s with x := v, pc := s.pc + 3, flags := { s.flags with z := v == 0, n := v.getLsbD 7 } }) ∧
    (∀ b : Addr, exec (.ldxAbsy b) s =
      let v := s.memRead (b + s.y.setWidth 16)
      .next { s with x := v, pc := s.pc + 3, flags := { s.flags with z := v == 0, n := v.getLsbD 7 } })

/-- LDY in its five modes completes (41_load.md sections 1 and 4; D10, log 6). -/
def Obligations.LdyResults : Prop :=
  ∀ s : State,
    (∀ v : Byte, exec (.ldyImm v) s =
      .next { s with y := v, pc := s.pc + 2, flags := { s.flags with z := v == 0, n := v.getLsbD 7 } }) ∧
    (∀ zp : Byte, exec (.ldyZp zp) s =
      let v := s.memRead (zp.setWidth 16)
      .next { s with y := v, pc := s.pc + 2, flags := { s.flags with z := v == 0, n := v.getLsbD 7 } }) ∧
    (∀ zp : Byte, exec (.ldyZpx zp) s =
      let v := s.memRead ((zp + s.x).setWidth 16)
      .next { s with y := v, pc := s.pc + 2, flags := { s.flags with z := v == 0, n := v.getLsbD 7 } }) ∧
    (∀ b : Addr, exec (.ldyAbs b) s =
      let v := s.memRead b
      .next { s with y := v, pc := s.pc + 3, flags := { s.flags with z := v == 0, n := v.getLsbD 7 } }) ∧
    (∀ b : Addr, exec (.ldyAbsx b) s =
      let v := s.memRead (b + s.x.setWidth 16)
      .next { s with y := v, pc := s.pc + 3, flags := { s.flags with z := v == 0, n := v.getLsbD 7 } })

/-- STA, STX and STY in their modes complete: one byte of the AddressSpace and PC, and nothing else; the effective address is
the full 16-bit sum. With the direct map every CPU write lands in the AddressSpace (42_store.md sections 1 to 4; 20_memory.md
section 1; D10 and D11, log 6 and 7). -/
def Obligations.StoreResults : Prop :=
  ∀ s : State,
    (∀ zp : Byte, exec (.staZp zp) s =
      .next { s with pc := s.pc + 2, space := Memory.write s.space zp.toNat s.a }) ∧
    (∀ zp : Byte, exec (.staZpx zp) s =
      .next { s with pc := s.pc + 2, space := Memory.write s.space (zp + s.x).toNat s.a }) ∧
    (∀ b : Addr, exec (.staAbs b) s =
      .next { s with pc := s.pc + 3, space := Memory.write s.space b.toNat s.a }) ∧
    (∀ b : Addr, exec (.staAbsx b) s =
      .next { s with pc := s.pc + 3, space := Memory.write s.space (b + s.x.setWidth 16).toNat s.a }) ∧
    (∀ b : Addr, exec (.staAbsy b) s =
      .next { s with pc := s.pc + 3, space := Memory.write s.space (b + s.y.setWidth 16).toNat s.a }) ∧
    (∀ zp : Byte, exec (.stxZp zp) s =
      .next { s with pc := s.pc + 2, space := Memory.write s.space zp.toNat s.x }) ∧
    (∀ zp : Byte, exec (.stxZpy zp) s =
      .next { s with pc := s.pc + 2, space := Memory.write s.space (zp + s.y).toNat s.x }) ∧
    (∀ b : Addr, exec (.stxAbs b) s =
      .next { s with pc := s.pc + 3, space := Memory.write s.space b.toNat s.x }) ∧
    (∀ zp : Byte, exec (.styZp zp) s =
      .next { s with pc := s.pc + 2, space := Memory.write s.space zp.toNat s.y }) ∧
    (∀ zp : Byte, exec (.styZpx zp) s =
      .next { s with pc := s.pc + 2, space := Memory.write s.space (zp + s.x).toNat s.y }) ∧
    (∀ b : Addr, exec (.styAbs b) s =
      .next { s with pc := s.pc + 3, space := Memory.write s.space b.toNat s.y })

/-- The six transfers complete (43_transfer.md R200): one register copied into another, PC moved by 1, no memory read or written,
Z and N from the value moved, TAY included, and no flag for TXS. -/
def Obligations.TransferResults : Prop :=
  ∀ s : State,
    exec .tax s = .next { s with
      x := s.a, pc := s.pc + 1, flags := { s.flags with z := s.a == 0, n := s.a.getLsbD 7 } } ∧
    exec .tay s = .next { s with
      y := s.a, pc := s.pc + 1, flags := { s.flags with z := s.a == 0, n := s.a.getLsbD 7 } } ∧
    exec .txa s = .next { s with
      a := s.x, pc := s.pc + 1, flags := { s.flags with z := s.x == 0, n := s.x.getLsbD 7 } } ∧
    exec .tya s = .next { s with
      a := s.y, pc := s.pc + 1, flags := { s.flags with z := s.y == 0, n := s.y.getLsbD 7 } } ∧
    exec .tsx s = .next { s with
      x := s.sp, pc := s.pc + 1, flags := { s.flags with z := s.sp == 0, n := s.sp.getLsbD 7 } } ∧
    exec .txs s = .next { s with sp := s.x, pc := s.pc + 1 }

/-- PHA and PHP complete: the byte goes to 0x0100 + SP of the AddressSpace, then SP decrements modulo 256; PHP's byte is the
eight flags as stored, in the order N V U B D I Z C (44_stack.md sections 1 and 2; D2 and D3, log 6). -/
def Obligations.PushResults : Prop :=
  ∀ s : State,
    exec .pha s = .next { s with
      pc := s.pc + 1, sp := s.sp - 1, space := Memory.write s.space (256 + s.sp.toNat) s.a } ∧
    ∃ p : Byte,
      exec .php s = .next { s with
        pc := s.pc + 1, sp := s.sp - 1, space := Memory.write s.space (256 + s.sp.toNat) p } ∧
      p.getLsbD 7 = s.flags.n ∧ p.getLsbD 6 = s.flags.v ∧ p.getLsbD 5 = s.flags.u ∧ p.getLsbD 4 = s.flags.b ∧
      p.getLsbD 3 = s.flags.d ∧ p.getLsbD 2 = s.flags.i ∧ p.getLsbD 1 = s.flags.z ∧ p.getLsbD 0 = s.flags.c

/-- PLA and PLP complete: SP increments modulo 256, then the byte at 0x0100 + SP is read; PLA sets Z and N from it, PLP overwrites
all eight flags from its bits, B and U included (44_stack.md sections 1 and 2; D2 and D3, log 6). -/
def Obligations.PullResults : Prop :=
  ∀ s : State,
    let v := s.memRead (0x0100 + (s.sp + 1).setWidth 16)
    exec .pla s = .next { s with
      a := v, pc := s.pc + 1, sp := s.sp + 1, flags := { s.flags with z := v == 0, n := v.getLsbD 7 } } ∧
    exec .plp s = .next { s with
      pc := s.pc + 1
      sp := s.sp + 1
      flags := ⟨v.getLsbD 0, v.getLsbD 1, v.getLsbD 2, v.getLsbD 3, v.getLsbD 4, v.getLsbD 5, v.getLsbD 6,
        v.getLsbD 7⟩ }

/-! ### Addressing (40_fetch_decode_addressing.md section 3) -/

/-- IMM, ZP, ABS and ZPX resolve as rules R124, R125 and R126 say, from the bytes fetched after the opcode: the immediate is the
next byte itself, a zero-page address the next byte, an absolute one the next word, and ZPX wraps in 8 bits. -/
def Obligations.UnindexedAndZpxOperands : Prop :=
  ∀ (s : State) (i : Instr) (rest : List Byte),
    decode [s.memRead s.pc, s.memRead (s.pc + 1), s.memRead (s.pc + 2)] = .ok (i, rest) →
      (i.mode = .imm → resolve i s = .val (s.memRead (s.pc + 1))) ∧
      (i.mode = .zp → ∃ a : Addr, resolve i s = .ea a false ∧ a.toNat = (s.memRead (s.pc + 1)).toNat ∧ a.toNat ≤ 255) ∧
      (i.mode = .abs → ∃ a : Addr, resolve i s = .ea a false ∧
        a.toNat = 256 * (s.memRead (s.pc + 2)).toNat + (s.memRead (s.pc + 1)).toNat) ∧
      (i.mode = .zpx → ∃ a : Addr, resolve i s = .ea a false ∧
        a.toNat = ((s.memRead (s.pc + 1)).toNat + s.x.toNat) % 256)

/-- ZPY wraps in 8 bits; ABSX and ABSY are the full 16-bit sum modulo 65536, crossing a page exactly when the low bytes carry
(40_fetch_decode_addressing.md section 3; the wrap past 0xFFFF is D10, log 6). -/
def Obligations.IndexedOperands : Prop :=
  ∀ (s : State) (i : Instr) (rest : List Byte),
    decode [s.memRead s.pc, s.memRead (s.pc + 1), s.memRead (s.pc + 2)] = .ok (i, rest) →
      let lo := (s.memRead (s.pc + 1)).toNat
      let hi := (s.memRead (s.pc + 2)).toNat
      (i.mode = .zpy → ∃ a : Addr, resolve i s = .ea a false ∧ a.toNat = (lo + s.y.toNat) % 256) ∧
      (i.mode = .absx → ∃ a : Addr, resolve i s = .ea a (decide (256 ≤ lo + s.x.toNat)) ∧
        a.toNat = (256 * hi + lo + s.x.toNat) % 65536) ∧
      (i.mode = .absy → ∃ a : Addr, resolve i s = .ea a (decide (256 ≤ lo + s.y.toNat)) ∧
        a.toNat = (256 * hi + lo + s.y.toNat) % 65536)

/-! ### Flags and the status byte -/

/-- The one flag function (40_fetch_decode_addressing.md R131): `SetZN` writes Z and N from the value and no other flag; every
instruction that writes A, X or Y calls it with the value written, in every mode; TXS writes SP and does not. -/
def Obligations.OneFlagFunction : Prop :=
  (∀ (f : Flags) (v : Byte),
    (f.setZN v).z = decide (v.toNat = 0) ∧ (f.setZN v).n = decide (128 ≤ v.toNat) ∧
    (f.setZN v).c = f.c ∧ (f.setZN v).i = f.i ∧ (f.setZN v).d = f.d ∧
    (f.setZN v).b = f.b ∧ (f.setZN v).u = f.u ∧ (f.setZN v).v = f.v) ∧
  ∀ (i : Instr) (s t : State), exec i s = .next t →
    (i.mnemonic ∈ [.lda, .txa, .tya, .pla] → t.flags = s.flags.setZN t.a) ∧
    (i.mnemonic ∈ [.ldx, .tax, .tsx] → t.flags = s.flags.setZN t.x) ∧
    (i.mnemonic ∈ [.ldy, .tay] → t.flags = s.flags.setZN t.y) ∧
    (i.mnemonic = .txs → t.flags = s.flags)

/-- The status byte and the flags carry the same eight bits: unpacking then packing gives the byte, packing then unpacking gives
the flags, and C is bit 0 and N bit 7 (10_state.md section 5, which the spec derives from its layout; D2 and D3, log 6). -/
def Obligations.StatusByteRoundTrip : Prop :=
  (∀ b : Byte, (Flags.unpack b).pack = b) ∧ (∀ f : Flags, Flags.unpack f.pack = f) ∧
    (∀ f : Flags, f.pack.getLsbD 0 = f.c ∧ f.pack.getLsbD 7 = f.n)

/-- Only PLP changes C, I, D, B, U or V; stores, pushes and TXS change no flag at all (10_state.md section 5 and 60_exceptions.md
section 4, which the spec derives from its instruction rules). -/
def Obligations.FlagWriters : Prop :=
  ∀ (i : Instr) (s t : State), exec i s = .next t →
    (i.mnemonic ≠ .plp → t.flags.c = s.flags.c ∧ t.flags.i = s.flags.i ∧ t.flags.d = s.flags.d ∧
      t.flags.b = s.flags.b ∧ t.flags.u = s.flags.u ∧ t.flags.v = s.flags.v) ∧
    (i.mnemonic ∈ [.sta, .stx, .sty, .txs, .pha, .php] → t.flags = s.flags)

/-- No instruction but PHP reads a flag: with other flags before it, it does the same to everything else, and the flags it writes
come out the same, all eight for PLP, Z and N for the loads, PLA and the transfers other than TXS (10_state.md section 5; derived
by the spec). -/
def Obligations.OnlyPhpReadsFlags : Prop :=
  ∀ (i : Instr) (s t : State) (f : Flags), i.mnemonic ≠ .php → exec i s = .next t →
    ∃ t', exec i { s with flags := f } = .next t' ∧ { t' with flags := t.flags } = t ∧
      (i.mnemonic = .plp → t' = t) ∧
      (i.mnemonic ∈ [.lda, .ldx, .ldy, .pla, .tax, .tay, .txa, .tya, .tsx] →
        t'.flags.z = t.flags.z ∧ t'.flags.n = t.flags.n)

/-! ### Registers: what writes and what reads them (10_state.md sections 2, 4 and 10) -/

/-- The register frame: A is changed only by LDA, TXA, TYA and PLA; X only by LDX, TAX and TSX; Y only by LDY and TAY; SP only by
TXS and the four stack instructions (10_state.md sections 2, 4 and 10). -/
def Obligations.RegisterWriters : Prop :=
  ∀ (i : Instr) (s t : State), exec i s = .next t →
    (i.mnemonic ∉ [.lda, .txa, .tya, .pla] → t.a = s.a) ∧
    (i.mnemonic ∉ [.ldx, .tax, .tsx] → t.x = s.x) ∧
    (i.mnemonic ∉ [.ldy, .tay] → t.y = s.y) ∧
    (i.mnemonic ∉ [.txs, .pha, .php, .pla, .plp] → t.sp = s.sp)

/-- What an instruction does not read, it does not depend on: A is read only by STA, TAX, TAY and PHA; X only by STX, TXA, TXS and
the modes ZPX and ABSX; Y only by STY, TYA and the modes ZPY and ABSY; SP only by TSX and the four stack instructions
(10_state.md sections 2, 4 and 10). With another value in such a register the next state is the same: wholly the same for an
instruction that writes the register, and but for the register, which keeps that value, for one that does not. -/
def Obligations.RegisterReaders : Prop :=
  ∀ (i : Instr) (s t : State) (v : Byte), exec i s = .next t →
    (i.mnemonic ∉ [.sta, .tax, .tay, .pha] →
      exec i { s with a := v } = .next (if i.mnemonic ∈ [.lda, .txa, .tya, .pla] then t else { t with a := v })) ∧
    (i.mnemonic ∉ [.stx, .txa, .txs] → i.mode ≠ .zpx → i.mode ≠ .absx →
      exec i { s with x := v } = .next (if i.mnemonic ∈ [.ldx, .tax, .tsx] then t else { t with x := v })) ∧
    (i.mnemonic ∉ [.sty, .tya] → i.mode ≠ .zpy → i.mode ≠ .absy →
      exec i { s with y := v } = .next (if i.mnemonic ∈ [.ldy, .tay] then t else { t with y := v })) ∧
    (i.mnemonic ∉ [.tsx, .pha, .php, .pla, .plp] →
      exec i { s with sp := v } = .next (if i.mnemonic = .txs then t else { t with sp := v }))

/-! ### Memory: the frame of every instruction -/

/-- Loads, transfers and pulls store nothing: every byte reads as before, by the CPU and raw, and the AddressSpace and the
cartridge are the same (41_load.md section 5 and 43_transfer.md section 1 with 44_stack.md section 1). -/
def Obligations.OtherInstructionsStoreNothing : Prop :=
  ∀ (i : Instr) (s t : State), i.mnemonic ∉ [.sta, .stx, .sty, .pha, .php] → exec i s = .next t →
    t.space = s.space ∧ t.cart = s.cart ∧ ∀ b : Addr, t.memRead b = s.memRead b ∧ t.rawRead b = s.rawRead b

/-- A store changes the byte at its effective address and no other byte, no register but PC, no flag and not the cartridge. The
byte holds the source register; the CPU reads it back unless the cartridge claims the address, where the CPU reads as before
(42_store.md section 5 and 20_memory.md section 1, which the spec derives; D11, log 7). -/
def Obligations.StoresChangeOneByte : Prop :=
  ∀ (i : Instr) (s t : State) (a : Addr) (crossed : Bool),
    i.mnemonic ∈ [.sta, .stx, .sty] → resolve i s = .ea a crossed → exec i s = .next t →
      (t.a = s.a ∧ t.x = s.x ∧ t.y = s.y ∧ t.sp = s.sp ∧ t.flags = s.flags ∧ t.cart = s.cart) ∧
      (∀ b : Addr, b ≠ a → t.memRead b = s.memRead b ∧ t.rawRead b = s.rawRead b) ∧
      (s.inv = true →
        (i.mnemonic = .sta → t.rawRead a = s.a) ∧ (i.mnemonic = .stx → t.rawRead a = s.x) ∧
        (i.mnemonic = .sty → t.rawRead a = s.y) ∧ (s.cartRead a = none → t.memRead a = t.rawRead a)) ∧
      (∀ v : Byte, s.cartRead a = some v → t.memRead a = v ∧ s.memRead a = v)

/-- A push changes the byte at 0x0100 + SP, which the CPU then reads back in any state with a canonical AddressSpace, whatever
the cartridge, and no other byte; A, X, Y, the flags and the cartridge stay (44_stack.md sections 1 and 2). -/
def Obligations.PushesChangeOneStackByte : Prop :=
  ∀ (i : Instr) (s t : State), i.mnemonic ∈ [.pha, .php] → exec i s = .next t →
    (t.a = s.a ∧ t.x = s.x ∧ t.y = s.y ∧ t.sp = s.sp - 1 ∧ t.flags = s.flags ∧ t.cart = s.cart) ∧
    (∀ b : Addr, b ≠ 0x0100 + s.sp.setWidth 16 → t.memRead b = s.memRead b ∧ t.rawRead b = s.rawRead b) ∧
    (s.inv = true →
      (i.mnemonic = .pha → t.memRead (0x0100 + s.sp.setWidth 16) = s.a) ∧
      (i.mnemonic = .php → Flags.unpack (t.memRead (0x0100 + s.sp.setWidth 16)) = s.flags))

/-- No step changes the cartridge: program memory is read-only, no CPU write is claimed, and no instruction reaches character
memory (20_memory.md sections 1 and 4; D14 and D34, log 7). -/
def Obligations.StepNeverChangesCartridge : Prop :=
  ∀ s t : State, step s = .next t → t.cart = s.cart

/-- Character memory is invisible to the CPU: with other character bytes a step does the same (20_memory.md section 3; D34,
log 7). -/
def Obligations.CharacterMemoryIsInvisible : Prop :=
  ∀ (s t : State) (c : CartState) (chr : List Byte), s.cart = some c → step s = .next t →
    step { s with cart := some { c with chr := chr } } = .next { t with cart := some { c with chr := chr } }

/-! ### The stack -/

/-- `Push` and `Pull` (10_state.md R27, R28): a push writes at 0x0100 + SP through the CPU bus and then decrements SP; a pull
increments SP and then reads there; at SP = 0x00 a push leaves 0xFF, at SP = 0xFF a pull leaves 0x00, and nothing is detected. -/
def Obligations.PushThenPullOperations : Prop :=
  ∀ (s : State) (v : Byte),
    s.push v = { s.memWrite (0x0100 + s.sp.setWidth 16) v with sp := s.sp - 1 } ∧
    s.pull = (s.memRead (0x0100 + (s.sp + 1).setWidth 16), { s with sp := s.sp + 1 }) ∧
    (s.sp = 0x00 → (s.push v).sp = 0xFF ∧ s.push v = { s.memWrite 0x0100 v with sp := 0xFF }) ∧
    (s.sp = 0xFF → s.pull = (s.memRead 0x0100, { s with sp := 0x00 }))

/-- PHA then PLA, from any state with any SP and any cartridge, leaves A and SP as they were and sets Z and N from A
(44_stack.md section 3, which the spec derives from its PHA and PLA). -/
def Obligations.PhaThenPlaRestoresA : Prop :=
  ∀ s t u : State, s.inv = true → exec .pha s = .next t → exec .pla t = .next u →
    u.a = s.a ∧ u.sp = s.sp ∧ u.flags = { s.flags with z := s.a == 0, n := s.a.getLsbD 7 } ∧ u.x = s.x ∧ u.y = s.y

/-- PHP, then any change to any state that keeps SP and the pushed byte, then PLP, restores exactly the pushed flags, also those
set or cleared in between (44_stack.md section 3, which the spec derives from its PHP and PLP; D3, log 6). -/
def Obligations.PhpThenPlpRestoresFlags : Prop :=
  ∀ s t u w : State, s.inv = true → exec .php s = .next t →
    u.sp = t.sp → u.memRead (0x0100 + s.sp.setWidth 16) = t.memRead (0x0100 + s.sp.setWidth 16) →
      exec .plp u = .next w → w.flags = s.flags ∧ w.sp = s.sp

/-! ### The invariant -/

/-- The invariant holds at reset. -/
def Obligations.ResetHasInvariant : Prop := State.reset.inv = true

/-- Every step keeps the invariant, from every state that has it: the AddressSpace stays canonical and inside 64 KiB
(10_state.md section 7), and the cartridge's buffers keep the sizes its bank counts declare (20_memory.md section 6). -/
def Obligations.StepKeepsInvariant : Prop :=
  ∀ s t : State, s.inv = true → step s = .next t → t.inv = true

/-- Every call of the host keeps the invariant (60_exceptions.md section 5; 10_state.md section 7). -/
def Obligations.HostCallsKeepInvariant : Prop :=
  ∀ (call : HostCall) (s : State), s.inv = true → (hostCall call s).2.inv = true

/-- Every state of every session has the invariant: sessions constructed without a cartridge or with any that `Load` built, and
continued by any host calls (70_reset_and_hazards.md sections 1 and 2; 60_exceptions.md section 5). -/
def Obligations.ReachableStatesHaveInvariant : Prop :=
  ∀ s : State, Reachable s → s.inv = true

/-- A run of `k` steps moves PC forward by between `k` and `3 * k` bytes, keeps the cartridge and keeps the invariant: no
instruction transfers control (40_fetch_decode_addressing.md section 5; 70_reset_and_hazards.md section 3; D7 and D9, log 6). -/
def Obligations.RunsGoStraightOn : Prop :=
  ∀ (k : Nat) (s t : State), runsTo k s t →
    (∃ n, k ≤ n ∧ n ≤ 3 * k ∧ t.pc = s.pc + BitVec.ofNat 16 n) ∧ t.cart = s.cart ∧ (s.inv = true → t.inv = true)

/-! ### The cartridge (20_memory.md sections 4 and 5) -/

/-- What a CPU read of a valid direct-map cartridge answers: nothing below 0x8000; with at most one bank the byte at the low 14
bits; with two or more the byte at the offset from 0x8000; a decline where the buffer ends (20_memory.md sections 4 and 5; D14, D16,
D19 and D31, log 7). -/
def Obligations.DirectMapCpuReads : Prop :=
  ∀ (c : CartState) (addr : Addr), c.valid = true → c.mapperId = 0 →
    (addr.toNat < 0x8000 → c.cpuRead addr = none) ∧
    (0x8000 ≤ addr.toNat → c.prgBanks.toNat ≤ 1 → c.cpuRead addr = c.prg[addr.toNat % 16384]?) ∧
    (0x8000 ≤ addr.toNat → 2 ≤ c.prgBanks.toNat → c.cpuRead addr = c.prg[addr.toNat - 0x8000]?)

/-- One program bank is mirrored: both halves of the window answer, with the same byte for the same low 14 bits (20_memory.md
section 4, the source's own property; the window is D14, log 7). -/
def Obligations.OneBankIsMirrored : Prop :=
  ∀ (c : CartState) (addr : Addr), c.wf = true → c.valid = true → c.prgBanks = 1 → 0x8000 ≤ addr.toNat →
    ∃ b : Byte, c.cpuRead addr = some b ∧ c.cpuRead (addr ^^^ 0x4000) = some b

/-- An invalid cartridge declines every access in both spaces, changes by none, and the CPU sees the AddressSpace as if there
were no cartridge (20_memory.md section 5; that "refuse" means decline is D13, log 7). -/
def Obligations.InvalidCartridgeDeclines : Prop :=
  ∀ (s : State) (c : CartState) (addr : Addr) (v : Byte), s.cart = some c → c.valid = false →
    c.cpuRead addr = none ∧ c.cpuWrite addr v = (false, c) ∧ c.videoRead addr = none ∧
      c.videoWrite addr v = (false, c) ∧ s.memRead addr = s.rawRead addr ∧ s.memWrite addr v = s.rawWrite addr v

/-- A video write to a valid cartridge as Load builds it is claimed exactly in 0x0000-0x1FFF of character RAM; it then changes that
byte, which a video read returns, and nothing else of the cartridge; a declined one changes nothing (20_memory.md section 5, in
part derived by the spec; D15, log 7). -/
def Obligations.VideoWrites : Prop :=
  ∀ (c : CartState) (addr : Addr) (v : Byte), c.wf = true → c.valid = true →
    (addr.toNat ≤ 0x1FFF → c.chrIsRam = true →
      ∃ c', c.videoWrite addr v = (true, c') ∧ c'.videoRead addr = some v ∧
        (∀ b : Addr, b ≠ addr → c'.videoRead b = c.videoRead b) ∧ { c' with chr := c.chr } = c) ∧
    (0x1FFF < addr.toNat → c.videoWrite addr v = (false, c) ∧ c.videoRead addr = none) ∧
    (c.chrIsRam = false → c.videoWrite addr v = (false, c))

/-- What a video read of a valid direct-map cartridge answers: in 0x0000-0x1FFF the character byte at that very offset, a decline
where the buffer ends, and nothing above (20_memory.md sections 4 and 5; D15 and D19, log 7). -/
def Obligations.DirectMapVideoReads : Prop :=
  ∀ (c : CartState) (addr : Addr), c.valid = true → c.mapperId = 0 →
    (addr.toNat ≤ 0x1FFF → c.videoRead addr = c.chr[addr.toNat]?) ∧
    (0x1FFF < addr.toNat → c.videoRead addr = none) ∧
    (c.wf = true → addr.toNat ≤ 0x1FFF → ∃ b : Byte, c.videoRead addr = some b)

/-- A CPU write under a byte that the cartridge claims is shadowed: every CPU read, at whatever address, answers as before, the
program byte there, while the raw read sees the byte written (20_memory.md section 1 and 60_exceptions.md section 5;
D11 and D25, log 7). -/
def Obligations.WritesUnderCartridgeAreShadowed : Prop :=
  ∀ (s : State) (addr : Addr) (v b : Byte), s.inv = true → s.cartRead addr = some b →
    (s.memWrite addr v).memRead addr = b ∧ (s.memWrite addr v).rawRead addr = v ∧
      ∀ a : Addr, (s.memWrite addr v).memRead a = s.memRead a

/-- A raw write never reaches the cartridge, and the next raw read gives it back; a CPU read sees it exactly where the cartridge
declines (60_exceptions.md section 5; D25, log 7). -/
def Obligations.RawAccessesBypassCartridge : Prop :=
  ∀ (s : State) (addr : Addr) (v : Byte), s.inv = true →
    hostCall (.read addr) (hostCall (.write addr v) s).2 = (.byte v, (hostCall (.write addr v) s).2) ∧
      (hostCall (.write addr v) s).2.cart = s.cart ∧
      (hostCall (.write addr v) s).2.memRead addr = (s.cartRead addr).getD v

/-! ### Load (20_memory.md section 6) -/

/-- `Load` succeeds exactly for a file that opens, holds the header and every byte the header declares, the trainer included, and
names mapper 0; else the cartridge is invalid and a reason is reported (20_memory.md section 6; D16 and D17, log 7 and 8). -/
def Obligations.LoadAcceptsExactly : Prop :=
  (load none).error = some .openFailed ∧ (load none).cart.valid = false ∧
  ∀ file : List Byte,
    ((load (some file)).error = none ↔
      16 ≤ file.length ∧
      16 + (if (file.getD 6 0).getLsbD 2 = true then 512 else 0) + 16384 * (file.getD 4 0).toNat +
        8192 * (file.getD 5 0).toNat ≤ file.length ∧
      (file.getD 6 0).toNat / 16 = 0 ∧ (file.getD 7 0).toNat / 16 = 0) ∧
    ((load (some file)).cart.valid = true ↔ (load (some file)).error = none)

/-- The buffers of a successful load: the program bytes stand in the file right after the header and trainer, the character bytes
right after them; with no character bank there are 8192 bytes of zeroed RAM (20_memory.md section 6; D18, log 7). -/
def Obligations.LoadedBuffers : Prop :=
  ∀ file : List Byte, (load (some file)).error = none →
    let c := (load (some file)).cart
    let start := 16 + (if (file.getD 6 0).getLsbD 2 = true then 512 else 0)
    c.prgBanks = file.getD 4 0 ∧ c.chrBanks = file.getD 5 0 ∧ c.mapperId = 0 ∧
    c.prg.length = 16384 * c.prgBanks.toNat ∧
    (∀ k, k < c.prg.length → c.prg[k]? = file[start + k]?) ∧
    (c.chrBanks = 0 → c.chr = List.replicate 8192 0 ∧ c.chrIsRam = true) ∧
    (c.chrBanks ≠ 0 → c.chr.length = 8192 * c.chrBanks.toNat ∧ c.chrIsRam = false ∧
      ∀ k, k < c.chr.length → c.chr[k]? = file[start + c.prg.length + k]?)

/-! ### Reset (70_reset_and_hazards.md section 1) -/

/-- CPU reset puts A, X and Y at 0x00, SP at 0xFD, every flag at 0 and PC at the little-endian word at 0xFFFC as the CPU reads
it, and keeps the AddressSpace and the cartridge (70_reset_and_hazards.md section 1; D4, D5, D6 and D24, log 5). -/
def Obligations.ResetValues : Prop :=
  ∀ s : State,
    (hostCall .reset s).2 = { s with
      a := 0x00
      x := 0x00
      y := 0x00
      sp := 0xFD
      flags := ⟨false, false, false, false, false, false, false, false⟩
      pc := (hostCall .reset s).2.pc } ∧
    (hostCall .reset s).2.pc.toNat = 256 * (s.memRead 0xFFFD).toNat + (s.memRead 0xFFFC).toNat

/-- Where the reset vector comes from: the program bytes at 0xFFFC and 0xFFFD of the window when a valid cartridge has a bank, else
(no bank, an invalid cartridge, none) the AddressSpace (70_reset_and_hazards.md section 1, which the spec derives; D6 and D14, log 5 and 7). -/
def Obligations.ResetVectorSource : Prop :=
  (∀ (s : State) (c : CartState), s.cart = some c → c.wf = true → c.valid = true → c.prgBanks = 1 →
    c.prg[0x3FFC]? = some (loByte s.cpuReset.pc) ∧ c.prg[0x3FFD]? = some (hiByte s.cpuReset.pc)) ∧
  (∀ (s : State) (c : CartState), s.cart = some c → c.wf = true → c.valid = true → 2 ≤ c.prgBanks.toNat →
    c.prg[0x7FFC]? = some (loByte s.cpuReset.pc) ∧ c.prg[0x7FFD]? = some (hiByte s.cpuReset.pc)) ∧
  (∀ s : State, (s.cart = none ∨ ∃ c, s.cart = some c ∧ c.valid = false) →
    s.cpuReset.pc = wordOf (s.rawRead 0xFFFC) (s.rawRead 0xFFFD)) ∧
  (∀ (s : State) (c : CartState), s.cart = some c → c.wf = true → c.valid = true → c.prgBanks = 0 →
    s.cpuReset.pc = wordOf (s.rawRead 0xFFFC) (s.rawRead 0xFFFD))

/-- The model's reset state is the session constructed without a cartridge: every byte reads 0x00 and PC is 0x0000
(70_reset_and_hazards.md section 1; that no cartridge is attached is the model's choice, log 3). -/
def Obligations.ResetStateIsConstruction : Prop :=
  State.reset = construct none ∧ State.reset.pc = 0x0000 ∧
    ∀ addr : Addr, State.reset.memRead addr = 0x00 ∧ State.reset.rawRead addr = 0x00

/-! ### Cycles and fetch coherence -/

/-- The base cycle count of each of the 37 instructions (30_encoding.md section 2; the counts are D20, log 6). -/
def Obligations.BaseCycleTable : Prop :=
  ∀ i : Instr, baseCycles i =
    match i.mnemonic, i.mode with
    | .pha, _ | .php, _ => 3
    | .pla, _ | .plp, _ => 4
    | _, .imp | _, .imm => 2
    | _, .zp => 3
    | .sta, .absx | .sta, .absy => 5
    | _, _ => 4

/-- The page-crossing cycle: one more for the loads in ABSX and ABSY exactly when the low byte of the base and the index carry,
none for any other instruction (40_fetch_decode_addressing.md section 6; D20, log 6). -/
def Obligations.PageCrossingCycle : Prop :=
  ∀ (i : Instr) (s : State),
    cycles i s = baseCycles i +
      (match i with
      | .ldaAbsx b | .ldyAbsx b => if 256 ≤ b.toNat % 256 + s.x.toNat then 1 else 0
      | .ldaAbsy b | .ldxAbsy b => if 256 ≤ b.toNat % 256 + s.y.toNat then 1 else 0
      | _ => 0)

/-- A store is seen by the next fetch with no action: whatever writes memory, STA, STX, STY outside what the cartridge claims, or
PHA, PHP in the stack page, over the byte at the next PC decides what the next step does; an unassigned byte stored there raises
UnknownOpcode, and any other is executed (20_memory.md section 7, which the spec derives; 60_exceptions.md section 1; that the step
answers UnknownOpcode as a fault is the model's choice, log 1; PHP's byte is D2 and D3, log 6). -/
def Obligations.NextFetchSeesStore : Prop :=
  ∀ (i : Instr) (s t : State) (v : Byte), s.inv = true → exec i s = .next t →
    ((i.mnemonic = .sta ∧ v = s.a ∨ i.mnemonic = .stx ∧ v = s.x ∨ i.mnemonic = .sty ∧ v = s.y) ∧
        (∃ crossed, resolve i s = .ea (s.pc + BitVec.ofNat 16 i.length) crossed) ∧
        s.cartRead (s.pc + BitVec.ofNat 16 i.length) = none ∨
      (i.mnemonic = .pha ∧ v = s.a ∨ i.mnemonic = .php ∧ v = s.flags.pack) ∧
        s.pc + BitVec.ofNat 16 i.length = 0x0100 + s.sp.setWidth 16) →
      t.memRead t.pc = v ∧
        ((∀ j : Instr, (encode j).head? ≠ some v) → step t = .fault (.unknownOpcode v)) ∧
        (∀ j : Instr, (encode j).head? = some v →
          ∃ k u, fetchInstr t = .ok k ∧ (encode k).head? = some v ∧ exec k t = .next u ∧ step t = .next u)
end

