-- ==== Sys2Proof/Laws/Assembler.lean ====
section
/-! SUPPORT. The pieces of the assembler syntax read back. -/

namespace Sys2Proof.Machine

/-- The two digits of a byte read back as the byte. -/
@[simp] theorem readHexByte_hexDigit (b : Byte) :
    readHexByte (hexDigit (b.toNat / 16)) (hexDigit (b.toNat % 16)) = some b := by
  revert b; decide

/-- No digit is a comma, so the index of a zero-page form is not read as a digit. -/
theorem hexDigit_ne_comma (n : Nat) : hexDigit n ≠ ',' := by
  have h : ∀ c ∈ hexDigits, c ≠ ',' := by simp [hexDigits]
  by_cases hn : n < hexDigits.length
  · apply h
    rw [hexDigit, List.getD_eq_getElem?_getD, List.getElem?_eq_getElem hn]
    exact List.getElem_mem hn
  · rw [hexDigit, List.getD_eq_getElem?_getD, List.getElem?_eq_none (by omega)]
    decide

/-- The three letters of a mnemonic read back, and do not begin with the dot of `.byte`. -/
theorem readMnemonic_mnemonicText (m : Mnemonic) :
    ∃ a b c, mnemonicText m = [a, b, c] ∧ readMnemonic [a, b, c] = some m ∧ a ≠ '.' := by
  cases m <;> exact ⟨_, _, _, rfl, rfl, by decide⟩

end Sys2Proof.Machine
end

