-- ==== Sys2Proof/Laws/Memory.lean ====
section
/-! SUPPORT. The AddressSpace: read after write, the frame of a write, and the canonical form. -/

namespace Sys2Proof.Machine

@[simp] theorem Memory.read_nil (a : Nat) : Memory.read [] a = Config.unwrittenByte := rfl

/-- A canonical list from `lo` on is one from any lower address on. -/
theorem Memory.wfFrom_mono {m : Memory} {lo lo' : Nat} (h : Memory.wfFrom lo m = true) (hle : lo' ≤ lo) :
    Memory.wfFrom lo' m = true := by
  cases m with
  | nil => rfl
  | cons e m =>
    obtain ⟨a, v⟩ := e
    simp only [Memory.wfFrom, Bool.and_eq_true, decide_eq_true_eq] at h ⊢
    exact ⟨⟨⟨Nat.le_trans hle h.1.1.1, h.1.1.2⟩, h.1.2⟩, h.2⟩

/-- Below its first address a canonical list holds nothing. -/
theorem Memory.read_below {m : Memory} {lo : Nat} (h : Memory.wfFrom lo m = true) {a : Nat} (ha : a < lo) :
    Memory.read m a = Config.unwrittenByte := by
  induction m generalizing lo with
  | nil => rfl
  | cons e m ih =>
    obtain ⟨b, w⟩ := e
    simp only [Memory.wfFrom, Bool.and_eq_true, decide_eq_true_eq] at h
    have hne : a ≠ b := by omega
    simp only [Memory.read, if_neg hne]
    exact ih h.2 (by omega)

/-- A write leaves every other address alone, whatever the list. -/
theorem Memory.read_write_other (m : Memory) {a b : Nat} (v : Byte) (hne : b ≠ a) :
    Memory.read (Memory.write m a v) b = Memory.read m b := by
  induction m with
  | nil =>
    by_cases hv : v = Config.unwrittenByte <;> simp [Memory.write, Memory.read, hv, hne]
  | cons e m ih =>
    obtain ⟨c, w⟩ := e
    simp only [Memory.write]
    split
    · by_cases hv : v = Config.unwrittenByte <;> simp [Memory.read, hv, hne]
    · split
      · next heq =>
        subst heq
        by_cases hv : v = Config.unwrittenByte <;> simp [Memory.read, hv, hne]
      · simp only [Memory.read, ih]

/-- In a canonical list, a read after a write to the same address gives the value written. -/
theorem Memory.read_write_same {m : Memory} {lo : Nat} (h : Memory.wfFrom lo m = true) (a : Nat) (v : Byte) :
    Memory.read (Memory.write m a v) a = v := by
  induction m generalizing lo with
  | nil =>
    by_cases hv : v = Config.unwrittenByte <;> simp [Memory.write, Memory.read, hv]
  | cons e m ih =>
    obtain ⟨c, w⟩ := e
    simp only [Memory.wfFrom, Bool.and_eq_true, decide_eq_true_eq] at h
    simp only [Memory.write]
    split
    · next hlt =>
      by_cases hv : v = Config.unwrittenByte
      · have hne : a ≠ c := by omega
        simp only [hv, ite_true, Memory.read, if_neg hne]
        exact Memory.read_below h.2 (by omega)
      · simp [Memory.read, hv]
    · split
      · next heq =>
        by_cases hv : v = Config.unwrittenByte
        · simp only [hv, ite_true]
          exact Memory.read_below h.2 (by omega)
        · simp [Memory.read, hv, heq]
      · next hne =>
        simp only [Memory.read, if_neg hne]
        exact ih h.2

/-- A write inside the AddressSpace keeps the canonical form. -/
theorem Memory.wfFrom_write {m : Memory} {lo : Nat} (h : Memory.wfFrom lo m = true) {a : Nat} (v : Byte)
    (hlo : lo ≤ a) (ha : a < 65536) : Memory.wfFrom lo (Memory.write m a v) = true := by
  induction m generalizing lo with
  | nil =>
    by_cases hv : v = Config.unwrittenByte <;> simp [Memory.write, Memory.wfFrom, Config.spaceSize, hv, hlo, ha]
  | cons e m ih =>
    obtain ⟨c, w⟩ := e
    have h' := h
    simp only [Memory.wfFrom, Bool.and_eq_true, decide_eq_true_eq, bne_iff_ne] at h
    simp only [Memory.write]
    split
    · next hlt =>
      by_cases hv : v = Config.unwrittenByte
      · simpa only [hv, ite_true] using h'
      · simp only [hv, ite_false, Memory.wfFrom, Bool.and_eq_true, decide_eq_true_eq, bne_iff_ne]
        exact ⟨⟨⟨hlo, ha⟩, hv⟩, ⟨⟨hlt, h.1.1.2⟩, h.1.2⟩, h.2⟩
    · split
      · next heq =>
        by_cases hv : v = Config.unwrittenByte
        · simp only [hv, ite_true]
          exact Memory.wfFrom_mono h.2 (by omega)
        · simp only [hv, ite_false, Memory.wfFrom, Bool.and_eq_true, decide_eq_true_eq, bne_iff_ne]
          exact ⟨⟨h.1.1, hv⟩, h.2⟩
      · simp only [Memory.wfFrom, Bool.and_eq_true, decide_eq_true_eq, bne_iff_ne]
        exact ⟨h.1, ih h.2 (by omega)⟩

/-- Every memory operation keeps the canonical form: a write at an address of the machine does (reads change nothing). -/
theorem Memory.wf_write {m : Memory} (h : Memory.wf m = true) (addr : Addr) (v : Byte) :
    Memory.wf (Memory.write m addr.toNat v) = true :=
  Memory.wfFrom_write h v (Nat.zero_le _) addr.isLt

/-- The memory of reset has the canonical form. -/
theorem Memory.wf_reset : Memory.wf State.reset.space = true := rfl

/-! ### the raw accesses -/

/-- A raw write leaves every other address alone. -/
theorem State.rawRead_rawWrite_other (s : State) {addr b : Addr} (v : Byte) (hne : b ≠ addr) :
    (s.rawWrite addr v).rawRead b = s.rawRead b :=
  Memory.read_write_other _ v (fun h => hne (BitVec.eq_of_toNat_eq h))

/-- A raw read after a raw write gives the value written. -/
theorem State.rawRead_rawWrite_same {s : State} (h : Memory.wf s.space = true) (addr : Addr) (v : Byte) :
    (s.rawWrite addr v).rawRead addr = v :=
  Memory.read_write_same h _ v

end Sys2Proof.Machine
end

