-- ==== Sys2Proof/Laws/State.lean ====
section
/-! SUPPORT. One lemma per field per update of the state, so that no proof unfolds a record update. -/

namespace Sys2Proof.Machine

/-! ### the flag function -/

@[simp] theorem Flags.setZN_c (f : Flags) (v : Byte) : (f.setZN v).c = f.c := rfl
@[simp] theorem Flags.setZN_i (f : Flags) (v : Byte) : (f.setZN v).i = f.i := rfl
@[simp] theorem Flags.setZN_d (f : Flags) (v : Byte) : (f.setZN v).d = f.d := rfl
@[simp] theorem Flags.setZN_b (f : Flags) (v : Byte) : (f.setZN v).b = f.b := rfl
@[simp] theorem Flags.setZN_u (f : Flags) (v : Byte) : (f.setZN v).u = f.u := rfl
@[simp] theorem Flags.setZN_v (f : Flags) (v : Byte) : (f.setZN v).v = f.v := rfl
@[simp] theorem Flags.setZN_z (f : Flags) (v : Byte) : (f.setZN v).z = (v == 0x00) := rfl
@[simp] theorem Flags.setZN_n (f : Flags) (v : Byte) : (f.setZN v).n = v.getLsbD 7 := rfl

/-! ### advance -/

@[simp] theorem State.advance_a (s : State) (k : Nat) : (s.advance k).a = s.a := rfl
@[simp] theorem State.advance_x (s : State) (k : Nat) : (s.advance k).x = s.x := rfl
@[simp] theorem State.advance_y (s : State) (k : Nat) : (s.advance k).y = s.y := rfl
@[simp] theorem State.advance_pc (s : State) (k : Nat) : (s.advance k).pc = s.pc + BitVec.ofNat 16 k := rfl
@[simp] theorem State.advance_sp (s : State) (k : Nat) : (s.advance k).sp = s.sp := rfl
@[simp] theorem State.advance_flags (s : State) (k : Nat) : (s.advance k).flags = s.flags := rfl
@[simp] theorem State.advance_space (s : State) (k : Nat) : (s.advance k).space = s.space := rfl
@[simp] theorem State.advance_cart (s : State) (k : Nat) : (s.advance k).cart = s.cart := rfl

/-! ### setZN -/

@[simp] theorem State.setZN_a (s : State) (v : Byte) : (s.setZN v).a = s.a := rfl
@[simp] theorem State.setZN_x (s : State) (v : Byte) : (s.setZN v).x = s.x := rfl
@[simp] theorem State.setZN_y (s : State) (v : Byte) : (s.setZN v).y = s.y := rfl
@[simp] theorem State.setZN_pc (s : State) (v : Byte) : (s.setZN v).pc = s.pc := rfl
@[simp] theorem State.setZN_sp (s : State) (v : Byte) : (s.setZN v).sp = s.sp := rfl
@[simp] theorem State.setZN_flags (s : State) (v : Byte) : (s.setZN v).flags = s.flags.setZN v := rfl
@[simp] theorem State.setZN_space (s : State) (v : Byte) : (s.setZN v).space = s.space := rfl
@[simp] theorem State.setZN_cart (s : State) (v : Byte) : (s.setZN v).cart = s.cart := rfl

/-! ### rawWrite -/

@[simp] theorem State.rawWrite_a (s : State) (addr : Addr) (v : Byte) : (s.rawWrite addr v).a = s.a := rfl
@[simp] theorem State.rawWrite_x (s : State) (addr : Addr) (v : Byte) : (s.rawWrite addr v).x = s.x := rfl
@[simp] theorem State.rawWrite_y (s : State) (addr : Addr) (v : Byte) : (s.rawWrite addr v).y = s.y := rfl
@[simp] theorem State.rawWrite_pc (s : State) (addr : Addr) (v : Byte) : (s.rawWrite addr v).pc = s.pc := rfl
@[simp] theorem State.rawWrite_sp (s : State) (addr : Addr) (v : Byte) : (s.rawWrite addr v).sp = s.sp := rfl
@[simp] theorem State.rawWrite_flags (s : State) (addr : Addr) (v : Byte) : (s.rawWrite addr v).flags = s.flags := rfl
@[simp] theorem State.rawWrite_space (s : State) (addr : Addr) (v : Byte) : (s.rawWrite addr v).space = Memory.write s.space addr.toNat v := rfl
@[simp] theorem State.rawWrite_cart (s : State) (addr : Addr) (v : Byte) : (s.rawWrite addr v).cart = s.cart := rfl

/-! ### cpuReset -/

@[simp] theorem State.cpuReset_a (s : State) : (s.cpuReset).a = 0x00 := rfl
@[simp] theorem State.cpuReset_x (s : State) : (s.cpuReset).x = 0x00 := rfl
@[simp] theorem State.cpuReset_y (s : State) : (s.cpuReset).y = 0x00 := rfl
@[simp] theorem State.cpuReset_pc (s : State) : (s.cpuReset).pc = s.memReadWord 0xFFFC := rfl
@[simp] theorem State.cpuReset_sp (s : State) : (s.cpuReset).sp = 0xFD := rfl
@[simp] theorem State.cpuReset_flags (s : State) : (s.cpuReset).flags = Flags.reset := rfl
@[simp] theorem State.cpuReset_space (s : State) : (s.cpuReset).space = s.space := rfl
@[simp] theorem State.cpuReset_cart (s : State) : (s.cpuReset).cart = s.cart := rfl

/-! ### setReg .a -/

@[simp] theorem State.setReg_a_a (s : State) (v : Byte) : (s.setReg .a v).a = v := rfl
@[simp] theorem State.setReg_a_x (s : State) (v : Byte) : (s.setReg .a v).x = s.x := rfl
@[simp] theorem State.setReg_a_y (s : State) (v : Byte) : (s.setReg .a v).y = s.y := rfl
@[simp] theorem State.setReg_a_pc (s : State) (v : Byte) : (s.setReg .a v).pc = s.pc := rfl
@[simp] theorem State.setReg_a_sp (s : State) (v : Byte) : (s.setReg .a v).sp = s.sp := rfl
@[simp] theorem State.setReg_a_flags (s : State) (v : Byte) : (s.setReg .a v).flags = s.flags := rfl
@[simp] theorem State.setReg_a_space (s : State) (v : Byte) : (s.setReg .a v).space = s.space := rfl
@[simp] theorem State.setReg_a_cart (s : State) (v : Byte) : (s.setReg .a v).cart = s.cart := rfl

/-! ### setReg .x -/

@[simp] theorem State.setReg_x_a (s : State) (v : Byte) : (s.setReg .x v).a = s.a := rfl
@[simp] theorem State.setReg_x_x (s : State) (v : Byte) : (s.setReg .x v).x = v := rfl
@[simp] theorem State.setReg_x_y (s : State) (v : Byte) : (s.setReg .x v).y = s.y := rfl
@[simp] theorem State.setReg_x_pc (s : State) (v : Byte) : (s.setReg .x v).pc = s.pc := rfl
@[simp] theorem State.setReg_x_sp (s : State) (v : Byte) : (s.setReg .x v).sp = s.sp := rfl
@[simp] theorem State.setReg_x_flags (s : State) (v : Byte) : (s.setReg .x v).flags = s.flags := rfl
@[simp] theorem State.setReg_x_space (s : State) (v : Byte) : (s.setReg .x v).space = s.space := rfl
@[simp] theorem State.setReg_x_cart (s : State) (v : Byte) : (s.setReg .x v).cart = s.cart := rfl

/-! ### setReg .y -/

@[simp] theorem State.setReg_y_a (s : State) (v : Byte) : (s.setReg .y v).a = s.a := rfl
@[simp] theorem State.setReg_y_x (s : State) (v : Byte) : (s.setReg .y v).x = s.x := rfl
@[simp] theorem State.setReg_y_y (s : State) (v : Byte) : (s.setReg .y v).y = v := rfl
@[simp] theorem State.setReg_y_pc (s : State) (v : Byte) : (s.setReg .y v).pc = s.pc := rfl
@[simp] theorem State.setReg_y_sp (s : State) (v : Byte) : (s.setReg .y v).sp = s.sp := rfl
@[simp] theorem State.setReg_y_flags (s : State) (v : Byte) : (s.setReg .y v).flags = s.flags := rfl
@[simp] theorem State.setReg_y_space (s : State) (v : Byte) : (s.setReg .y v).space = s.space := rfl
@[simp] theorem State.setReg_y_cart (s : State) (v : Byte) : (s.setReg .y v).cart = s.cart := rfl

/-! ### setReg .sp -/

@[simp] theorem State.setReg_sp_a (s : State) (v : Byte) : (s.setReg .sp v).a = s.a := rfl
@[simp] theorem State.setReg_sp_x (s : State) (v : Byte) : (s.setReg .sp v).x = s.x := rfl
@[simp] theorem State.setReg_sp_y (s : State) (v : Byte) : (s.setReg .sp v).y = s.y := rfl
@[simp] theorem State.setReg_sp_pc (s : State) (v : Byte) : (s.setReg .sp v).pc = s.pc := rfl
@[simp] theorem State.setReg_sp_sp (s : State) (v : Byte) : (s.setReg .sp v).sp = v := rfl
@[simp] theorem State.setReg_sp_flags (s : State) (v : Byte) : (s.setReg .sp v).flags = s.flags := rfl
@[simp] theorem State.setReg_sp_space (s : State) (v : Byte) : (s.setReg .sp v).space = s.space := rfl
@[simp] theorem State.setReg_sp_cart (s : State) (v : Byte) : (s.setReg .sp v).cart = s.cart := rfl

/-! ### setReg, any register -/

@[simp] theorem State.setReg_pc (s : State) (r : Reg) (v : Byte) : (s.setReg r v).pc = s.pc := by cases r <;> rfl
@[simp] theorem State.setReg_flags (s : State) (r : Reg) (v : Byte) : (s.setReg r v).flags = s.flags := by cases r <;> rfl
@[simp] theorem State.setReg_space (s : State) (r : Reg) (v : Byte) : (s.setReg r v).space = s.space := by cases r <;> rfl
@[simp] theorem State.setReg_cart (s : State) (r : Reg) (v : Byte) : (s.setReg r v).cart = s.cart := by cases r <;> rfl

/-- The register file: reading after a write gives the value at the register written and the old one elsewhere. -/
theorem State.reg_setReg (s : State) (r q : Reg) (v : Byte) :
    (s.setReg r v).reg q = if q = r then v else s.reg q := by cases r <;> cases q <;> rfl

@[simp] theorem State.reg_a (s : State) : s.reg .a = s.a := rfl
@[simp] theorem State.reg_x (s : State) : s.reg .x = s.x := rfl
@[simp] theorem State.reg_y (s : State) : s.reg .y = s.y := rfl
@[simp] theorem State.reg_sp (s : State) : s.reg .sp = s.sp := rfl
@[simp] theorem State.reg_advance (s : State) (k : Nat) (r : Reg) : (s.advance k).reg r = s.reg r := by cases r <;> rfl

/-- Two states are equal when their fields are. -/
theorem State.ext_fields {s t : State} (ha : s.a = t.a) (hx : s.x = t.x) (hy : s.y = t.y) (hpc : s.pc = t.pc)
    (hsp : s.sp = t.sp) (hf : s.flags = t.flags) (hs : s.space = t.space) (hc : s.cart = t.cart) : s = t := by
  cases s; cases t; simp_all

end Sys2Proof.Machine
end

