-- ==== Sys2Proof/Laws/Bus.lean ====
section
/-! SUPPORT. What the cartridge and the CPU bus can do, said once. -/

namespace Sys2Proof.Machine

/-- A registered mapper is the direct map. -/
theorem mapper_eq_directMap (m : Mapper) : m = .directMap := by cases m; rfl

/-- No CPU write is claimed, and none changes the cartridge (20_memory.md R59, R64). -/
@[simp] theorem CartState.cpuWrite_declined (c : CartState) (addr : Addr) (v : Byte) :
    c.cpuWrite addr v = (false, c) := by
  unfold CartState.cpuWrite
  cases c.mapper with
  | none => rfl
  | some m => cases m; rfl

/-- A cartridge reset changes nothing (R62, R67). -/
@[simp] theorem CartState.reset_eq (c : CartState) : c.reset = c := by
  unfold CartState.reset
  cases c.mapper with
  | none => rfl
  | some m => cases m; rfl

/-- Below the program window the cartridge claims no read (R58). -/
theorem CartState.cpuRead_below (c : CartState) {addr : Addr} (h : addr < 0x8000) : c.cpuRead addr = none := by
  have hw : ¬ Config.prgWindowBase ≤ addr := by simpa [Config.prgWindowBase] using h
  unfold CartState.cpuRead
  cases c.mapper with
  | none => rfl
  | some m => cases m; simp [Mapper.cpuReadTranslate, hw]

theorem State.cartRead_below (s : State) {addr : Addr} (h : addr < 0x8000) : s.cartRead addr = none := by
  unfold State.cartRead
  cases s.cart with
  | none => rfl
  | some c => exact c.cpuRead_below h

/-- The cartridge's answer depends on the cartridge alone. -/
theorem State.cartRead_congr {s t : State} (h : s.cart = t.cart) (addr : Addr) : s.cartRead addr = t.cartRead addr := by
  simp only [State.cartRead, h]

/-- A CPU read depends on the AddressSpace and the cartridge alone. -/
theorem State.memRead_congr {s t : State} (hs : s.space = t.space) (hc : s.cart = t.cart) (addr : Addr) :
    s.memRead addr = t.memRead addr := by
  simp only [State.memRead, State.rawRead, State.cartRead_congr hc, hs]

theorem State.memRead_claimed {s : State} {addr : Addr} {b : Byte} (h : s.cartRead addr = some b) :
    s.memRead addr = b := by simp only [State.memRead, h]

theorem State.memRead_declined {s : State} {addr : Addr} (h : s.cartRead addr = none) :
    s.memRead addr = s.rawRead addr := by simp only [State.memRead, h]

/-- Every CPU write lands in the AddressSpace (20_memory.md R51 with R59). -/
theorem State.memWrite_eq (s : State) (addr : Addr) (v : Byte) : s.memWrite addr v = s.rawWrite addr v := by
  unfold State.memWrite
  cases h : s.cart with
  | none => rfl
  | some c => simp

@[simp] theorem State.memWrite_a (s : State) (addr : Addr) (v : Byte) : (s.memWrite addr v).a = s.a := by
  simp [State.memWrite_eq]
@[simp] theorem State.memWrite_x (s : State) (addr : Addr) (v : Byte) : (s.memWrite addr v).x = s.x := by
  simp [State.memWrite_eq]
@[simp] theorem State.memWrite_y (s : State) (addr : Addr) (v : Byte) : (s.memWrite addr v).y = s.y := by
  simp [State.memWrite_eq]
@[simp] theorem State.memWrite_pc (s : State) (addr : Addr) (v : Byte) : (s.memWrite addr v).pc = s.pc := by
  simp [State.memWrite_eq]
@[simp] theorem State.memWrite_sp (s : State) (addr : Addr) (v : Byte) : (s.memWrite addr v).sp = s.sp := by
  simp [State.memWrite_eq]
@[simp] theorem State.memWrite_flags (s : State) (addr : Addr) (v : Byte) : (s.memWrite addr v).flags = s.flags := by
  simp [State.memWrite_eq]
@[simp] theorem State.memWrite_cart (s : State) (addr : Addr) (v : Byte) : (s.memWrite addr v).cart = s.cart := by
  simp [State.memWrite_eq]
@[simp] theorem State.memWrite_space (s : State) (addr : Addr) (v : Byte) :
    (s.memWrite addr v).space = Memory.write s.space addr.toNat v := by
  simp [State.memWrite_eq]

/-- A CPU write is seen by no CPU read of another address. -/
theorem State.memRead_memWrite_other (s : State) {addr b : Addr} (v : Byte) (hne : b ≠ addr) :
    (s.memWrite addr v).memRead b = s.memRead b := by
  rw [State.memWrite_eq]
  unfold State.memRead
  rw [State.cartRead_congr (State.rawWrite_cart s addr v) b, State.rawRead_rawWrite_other s v hne]

/-- A CPU write is seen by the CPU where the cartridge does not claim the read. -/
theorem State.memRead_memWrite_same {s : State} (h : Memory.wf s.space = true) {addr : Addr} (v : Byte)
    (hc : s.cartRead addr = none) : (s.memWrite addr v).memRead addr = v := by
  rw [State.memWrite_eq]
  have hc' : (s.rawWrite addr v).cartRead addr = none := by
    rw [State.cartRead_congr (State.rawWrite_cart s addr v) addr]; exact hc
  rw [State.memRead_declined hc', State.rawRead_rawWrite_same h]

/-! ### fetch -/

@[simp] theorem State.memRead_advance (s : State) (k : Nat) (addr : Addr) : (s.advance k).memRead addr = s.memRead addr :=
  State.memRead_congr rfl rfl addr

theorem State.advance_advance (s : State) (j k : Nat) : (s.advance j).advance k = s.advance (j + k) := by
  simp [State.advance, BitVec.add_assoc, BitVec.ofNat_add]

/-- Fetching moves PC and changes nothing else. -/
theorem State.fetchBytes_state (k : Nat) (s : State) : (s.fetchBytes k).2 = s.advance k := by
  induction k generalizing s with
  | zero => simp [State.fetchBytes, State.advance]
  | succ k ih => simp [State.fetchBytes, State.fetchByte, ih, State.advance_advance, Nat.add_comm]

theorem State.fetchBytes_one (s : State) : (s.fetchBytes 1).1 = [s.memRead s.pc] := by
  simp [State.fetchBytes, State.fetchByte]

theorem State.fetchBytes_two (s : State) : (s.fetchBytes 2).1 = [s.memRead s.pc, s.memRead (s.pc + 1)] := by
  simp [State.fetchBytes, State.fetchByte]

theorem State.fetchBytes_three (s : State) :
    (s.fetchBytes 3).1 = [s.memRead s.pc, s.memRead (s.pc + 1), s.memRead (s.pc + 2)] := by
  simp [State.fetchBytes, State.fetchByte, BitVec.add_assoc]

/-! ### the stack -/

/-- The stack address lies in page 0x01, below the program window. -/
theorem State.stackAddr_below (s : State) : s.stackAddr < 0x8000 := by
  simp only [State.stackAddr, Config.stackBase, zext16]
  bv_omega

@[simp] theorem State.push_a (s : State) (v : Byte) : (s.push v).a = s.a := by simp [State.push]
@[simp] theorem State.push_x (s : State) (v : Byte) : (s.push v).x = s.x := by simp [State.push]
@[simp] theorem State.push_y (s : State) (v : Byte) : (s.push v).y = s.y := by simp [State.push]
@[simp] theorem State.push_pc (s : State) (v : Byte) : (s.push v).pc = s.pc := by simp [State.push]
@[simp] theorem State.push_sp (s : State) (v : Byte) : (s.push v).sp = s.sp - 1 := by simp [State.push]
@[simp] theorem State.push_flags (s : State) (v : Byte) : (s.push v).flags = s.flags := by simp [State.push]
@[simp] theorem State.push_cart (s : State) (v : Byte) : (s.push v).cart = s.cart := by simp [State.push]
@[simp] theorem State.push_space (s : State) (v : Byte) :
    (s.push v).space = Memory.write s.space s.stackAddr.toNat v := by simp [State.push]

/-- A pull moves SP and reads the byte at the new stack address. -/
theorem State.pull_eq (s : State) :
    s.pull = (s.memRead (0x0100 + zext16 (s.sp + 1)), { s with sp := s.sp + 1 }) := by
  simp only [State.pull, State.stackAddr, Config.stackBase]
  congr 1

end Sys2Proof.Machine
end

