-- ==== Sys2Proof/Laws/CartLoad.lean ====
section
/-! SUPPORT. The registered mappers and the outcomes of Load, said once. -/

namespace Sys2Proof.Machine

theorem mapperOf_zero : mapperOf 0 = some .directMap := rfl

theorem mapperOf_other {id : Byte} (h : id ≠ 0) : mapperOf id = none := if_neg h

/-- A valid cartridge with identifier 0 has the direct map. -/
theorem CartState.mapper_directMap {c : CartState} (hv : c.valid = true) (hm : c.mapperId = 0) :
    c.mapper = some .directMap := by
  rw [CartState.mapper, if_pos hv, hm, mapperOf_zero]

/-- An invalid cartridge has no mapper that answers. -/
theorem CartState.mapper_invalid {c : CartState} (hv : c.valid = false) : c.mapper = none := by
  simp [CartState.mapper, hv]

/-- The outcomes of Load for a file that opens, in the order of the checks (20_memory.md R71). -/
theorem load_some (file : List Byte) :
    load (some file) =
      if file.length < 16 then .failed .truncated
      else if file.length < prgStart file + prgLength file + chrLength file then .failed .truncated
      else if headerMapperId file ≠ 0 then .failed .unknownMapper
      else ⟨loadedCart file, none⟩ := by
  by_cases hm : headerMapperId file = 0
  · simp only [load, Config.headerSize, hm, mapperOf_zero, ne_eq, not_true_eq_false, reduceCtorEq, if_false]
  · simp only [load, Config.headerSize, mapperOf_other hm, ne_eq, hm, not_false_eq_true, if_true]

end Sys2Proof.Machine
end

