-- ==== Sys2Proof/Laws/Decode.lean ====
section
/-! SUPPORT. The opcode table: byte order, that no two rows share an opcode, and that each row builds the instruction it names. -/

namespace Sys2Proof

/-- The bits of a word: the low byte's, then the high byte's. -/
theorem getLsbD_wordOf (lo hi : Byte) (i : Nat) :
    (wordOf lo hi).getLsbD i = if i < 8 then lo.getLsbD i else hi.getLsbD (i - 8) :=
  BitVec.getLsbD_append

theorem getLsbD_loByte (w : Addr) (i : Nat) : (loByte w).getLsbD i = (decide (i < 8) && w.getLsbD i) := by
  simp [loByte, BitVec.getLsbD_extractLsb']

theorem getLsbD_hiByte (w : Addr) (i : Nat) : (hiByte w).getLsbD i = (decide (i < 8) && w.getLsbD (8 + i)) := by
  simp [hiByte, BitVec.getLsbD_extractLsb']

@[simp] theorem wordOf_lo_hi (w : Addr) : wordOf (loByte w) (hiByte w) = w := by
  apply BitVec.eq_of_getLsbD_eq
  intro i hi
  rw [getLsbD_wordOf, getLsbD_loByte, getLsbD_hiByte]
  by_cases h : i < 8
  · rw [if_pos h, decide_eq_true h, Bool.true_and]
  · rw [if_neg h, decide_eq_true (by omega : i - 8 < 8), Bool.true_and, Nat.add_sub_of_le (by omega : 8 ≤ i)]

@[simp] theorem loByte_wordOf (lo hi : Byte) : loByte (wordOf lo hi) = lo := by
  apply BitVec.eq_of_getLsbD_eq
  intro i h
  rw [getLsbD_loByte, getLsbD_wordOf, if_pos h, decide_eq_true h, Bool.true_and]

@[simp] theorem hiByte_wordOf (lo hi : Byte) : hiByte (wordOf lo hi) = hi := by
  apply BitVec.eq_of_getLsbD_eq
  intro i h
  rw [getLsbD_hiByte, getLsbD_wordOf, if_neg (by omega : ¬ 8 + i < 8), decide_eq_true h, Bool.true_and,
    Nat.add_sub_cancel_left]

/-- No two rows share an opcode byte (30_encoding.md R100). -/
theorem opcodeTable_unambiguous : (opcodeTable.map (·.opcode)).Nodup := by decide

/-- The table has 37 rows (R106). -/
theorem opcodeTable_length : opcodeTable.length = 37 := rfl

/-- What a row must satisfy: its instruction has the row's mnemonic and mode and encodes to the row's opcode and the operand
bytes it was made from. -/
def OpRow.Consistent (row : OpRow) : Prop :=
  ∀ b1 b2, (row.make b1 b2).mnemonic = row.mnemonic ∧ (row.make b1 b2).mode = row.mode ∧
    encode (row.make b1 b2) = [row.opcode, b1, b2].take row.mode.length

/-- Every row is consistent. -/
theorem opcodeTable_consistent : ∀ row ∈ opcodeTable, row.Consistent := by
  simp [opcodeTable, loadRows, storeRows, transferRows, stackRows, OpRow.Consistent, Instr.mnemonic, Instr.mode, encode,
    Mode.length]

/-- What `lookup` can answer: a row of the table with that opcode. -/
theorem lookup_some {op : Byte} {row : OpRow} (h : lookup op = some row) : row ∈ opcodeTable ∧ row.opcode = op := by
  unfold lookup at h
  exact ⟨List.mem_of_find?_eq_some h, by simpa using List.find?_some h⟩

/-- What `lookup` declines: a byte that is the opcode of no row. -/
theorem lookup_none {op : Byte} : lookup op = none ↔ ∀ row ∈ opcodeTable, row.opcode ≠ op := by
  simp [lookup, List.find?_eq_none]

end Sys2Proof
end

