-- ==== Sys2Proof/Laws/Exec.lean ====
section
/-! SUPPORT. What the shared operations of the families do, said once: the load, the store, the transfer. -/

namespace Sys2Proof.Machine

@[simp] theorem State.load_pc (s : State) (r : Reg) (v : Byte) : (s.load r v).pc = s.pc := by simp [State.load]
@[simp] theorem State.load_flags (s : State) (r : Reg) (v : Byte) : (s.load r v).flags = s.flags.setZN v := by
  simp [State.load]
@[simp] theorem State.load_space (s : State) (r : Reg) (v : Byte) : (s.load r v).space = s.space := by simp [State.load]
@[simp] theorem State.load_cart (s : State) (r : Reg) (v : Byte) : (s.load r v).cart = s.cart := by simp [State.load]

/-- A load writes its destination register and no other. -/
theorem State.reg_load (s : State) (r q : Reg) (v : Byte) : (s.load r v).reg q = if q = r then v else s.reg q := by
  cases r <;> cases q <;> rfl

/-- A store is a CPU write of the source register. -/
theorem State.store_eq (s : State) (r : Reg) (ea : Addr) : s.store r ea = s.rawWrite ea (s.reg r) :=
  State.memWrite_eq s ea _

@[simp] theorem State.transfer_pc (s : State) (r q : Reg) : (s.transfer r q).pc = s.pc := by
  cases q <;> simp [State.transfer]
@[simp] theorem State.transfer_space (s : State) (r q : Reg) : (s.transfer r q).space = s.space := by
  cases q <;> simp [State.transfer]
@[simp] theorem State.transfer_cart (s : State) (r q : Reg) : (s.transfer r q).cart = s.cart := by
  cases q <;> simp [State.transfer]

/-- A transfer sets Z and N from the value moved, unless it moves into SP (43_transfer.md R200). -/
theorem State.transfer_flags (s : State) (r q : Reg) :
    (s.transfer r q).flags = if q = .sp then s.flags else s.flags.setZN (s.reg r) := by
  cases q <;> simp [State.transfer]

/-- A transfer writes its destination register and no other. -/
theorem State.reg_transfer (s : State) (r q p : Reg) :
    (s.transfer r q).reg p = if p = q then s.reg r else s.reg p := by
  cases q <;> cases p <;> rfl

end Sys2Proof.Machine
end

