-- ==== Sys2Proof/Laws/Flags.lean ====
section
/-! SUPPORT. The bits of the packed status byte. -/

namespace Sys2Proof.Machine

/-- A flag shifted to bit `k` is that bit and no other (10_state.md R31). -/
theorem flagBit_getLsbD (f : Bool) (k j : Nat) (hj : j < 8) :
    (flagBit f k).getLsbD j = (f && decide (j = k)) := by
  cases f
  · simp [flagBit]
  · simp only [flagBit, if_true, BitVec.getLsbD_shiftLeft, BitVec.getLsbD_one, Bool.true_and]
    rw [Bool.eq_iff_iff]
    simp only [Bool.and_eq_true, decide_eq_true_eq, Bool.not_eq_true', decide_eq_false_iff_not]
    omega

/-- The bits of `PackP()`, from 7 down to 0 (10_state.md R31). -/
theorem Flags.pack_bits (f : Flags) :
    f.pack.getLsbD 7 = f.n ∧ f.pack.getLsbD 6 = f.v ∧ f.pack.getLsbD 5 = f.u ∧ f.pack.getLsbD 4 = f.b ∧
      f.pack.getLsbD 3 = f.d ∧ f.pack.getLsbD 2 = f.i ∧ f.pack.getLsbD 1 = f.z ∧ f.pack.getLsbD 0 = f.c := by
  obtain ⟨c, z, i, d, b, u, v, n⟩ := f
  revert c z i d b u v n
  decide

end Sys2Proof.Machine
end

