-- ==== Sys2Proof/Laws/PerInstr.lean ====
section
/-! SUPPORT. Statements about every instruction as syntax, one lemma per constructor. -/

namespace Sys2Proof.Laws

/-- The encoding has as many bytes as the mode says, and the opcode's row names the mnemonic and the mode
(30_encoding.md R101, R103, R106). -/
def EncodedLength.Statement (i : Instr) : Prop :=
  (encode i).length = i.length ∧
    (lookup i.opcode).map (fun row => (row.mnemonic, row.mode)) = some (i.mnemonic, i.mode)

theorem EncodedLength.ldaImm (v : Byte) : EncodedLength.Statement (.ldaImm v) := ⟨rfl, rfl⟩
theorem EncodedLength.ldaZp (v : Byte) : EncodedLength.Statement (.ldaZp v) := ⟨rfl, rfl⟩
theorem EncodedLength.ldaZpx (v : Byte) : EncodedLength.Statement (.ldaZpx v) := ⟨rfl, rfl⟩
theorem EncodedLength.ldaAbs (v : Addr) : EncodedLength.Statement (.ldaAbs v) := ⟨rfl, rfl⟩
theorem EncodedLength.ldaAbsx (v : Addr) : EncodedLength.Statement (.ldaAbsx v) := ⟨rfl, rfl⟩
theorem EncodedLength.ldaAbsy (v : Addr) : EncodedLength.Statement (.ldaAbsy v) := ⟨rfl, rfl⟩
theorem EncodedLength.ldxImm (v : Byte) : EncodedLength.Statement (.ldxImm v) := ⟨rfl, rfl⟩
theorem EncodedLength.ldxZp (v : Byte) : EncodedLength.Statement (.ldxZp v) := ⟨rfl, rfl⟩
theorem EncodedLength.ldxZpy (v : Byte) : EncodedLength.Statement (.ldxZpy v) := ⟨rfl, rfl⟩
theorem EncodedLength.ldxAbs (v : Addr) : EncodedLength.Statement (.ldxAbs v) := ⟨rfl, rfl⟩
theorem EncodedLength.ldxAbsy (v : Addr) : EncodedLength.Statement (.ldxAbsy v) := ⟨rfl, rfl⟩
theorem EncodedLength.ldyImm (v : Byte) : EncodedLength.Statement (.ldyImm v) := ⟨rfl, rfl⟩
theorem EncodedLength.ldyZp (v : Byte) : EncodedLength.Statement (.ldyZp v) := ⟨rfl, rfl⟩
theorem EncodedLength.ldyZpx (v : Byte) : EncodedLength.Statement (.ldyZpx v) := ⟨rfl, rfl⟩
theorem EncodedLength.ldyAbs (v : Addr) : EncodedLength.Statement (.ldyAbs v) := ⟨rfl, rfl⟩
theorem EncodedLength.ldyAbsx (v : Addr) : EncodedLength.Statement (.ldyAbsx v) := ⟨rfl, rfl⟩
theorem EncodedLength.staZp (v : Byte) : EncodedLength.Statement (.staZp v) := ⟨rfl, rfl⟩
theorem EncodedLength.staZpx (v : Byte) : EncodedLength.Statement (.staZpx v) := ⟨rfl, rfl⟩
theorem EncodedLength.staAbs (v : Addr) : EncodedLength.Statement (.staAbs v) := ⟨rfl, rfl⟩
theorem EncodedLength.staAbsx (v : Addr) : EncodedLength.Statement (.staAbsx v) := ⟨rfl, rfl⟩
theorem EncodedLength.staAbsy (v : Addr) : EncodedLength.Statement (.staAbsy v) := ⟨rfl, rfl⟩
theorem EncodedLength.stxZp (v : Byte) : EncodedLength.Statement (.stxZp v) := ⟨rfl, rfl⟩
theorem EncodedLength.stxZpy (v : Byte) : EncodedLength.Statement (.stxZpy v) := ⟨rfl, rfl⟩
theorem EncodedLength.stxAbs (v : Addr) : EncodedLength.Statement (.stxAbs v) := ⟨rfl, rfl⟩
theorem EncodedLength.styZp (v : Byte) : EncodedLength.Statement (.styZp v) := ⟨rfl, rfl⟩
theorem EncodedLength.styZpx (v : Byte) : EncodedLength.Statement (.styZpx v) := ⟨rfl, rfl⟩
theorem EncodedLength.styAbs (v : Addr) : EncodedLength.Statement (.styAbs v) := ⟨rfl, rfl⟩
theorem EncodedLength.tax : EncodedLength.Statement .tax := ⟨rfl, rfl⟩
theorem EncodedLength.tay : EncodedLength.Statement .tay := ⟨rfl, rfl⟩
theorem EncodedLength.txa : EncodedLength.Statement .txa := ⟨rfl, rfl⟩
theorem EncodedLength.tya : EncodedLength.Statement .tya := ⟨rfl, rfl⟩
theorem EncodedLength.tsx : EncodedLength.Statement .tsx := ⟨rfl, rfl⟩
theorem EncodedLength.txs : EncodedLength.Statement .txs := ⟨rfl, rfl⟩
theorem EncodedLength.pha : EncodedLength.Statement .pha := ⟨rfl, rfl⟩
theorem EncodedLength.php : EncodedLength.Statement .php := ⟨rfl, rfl⟩
theorem EncodedLength.pla : EncodedLength.Statement .pla := ⟨rfl, rfl⟩
theorem EncodedLength.plp : EncodedLength.Statement .plp := ⟨rfl, rfl⟩

end Sys2Proof.Laws
end

