-- ==== Sys2Proof/Laws/Step.lean ====
section
/-! SUPPORT. What the fetch can answer, and what a next state of a step comes from. -/

namespace Sys2Proof.Machine

/-- The fetch at a byte that is no opcode (40_fetch_decode_addressing.md R120). -/
theorem fetchInstr_unknown {s : State} (h : lookup (s.memRead s.pc) = none) :
    fetchInstr s = .error (s.memRead s.pc) := by
  simp only [fetchInstr, h]

/-- The fetch at a byte with a row: the row's instruction, made from the bytes that its length takes in (R120, R121). -/
theorem fetchInstr_row {s : State} {row : OpRow} (h : lookup (s.memRead s.pc) = some row) :
    fetchInstr s = .ok (row.make (if 2 ≤ row.mode.length then s.memRead (s.pc + 1) else 0)
      (if row.mode.length = 3 then s.memRead (s.pc + 2) else 0)) := by
  have hl : row.mode.length = 1 ∨ row.mode.length = 2 ∨ row.mode.length = 3 := by cases row.mode <;> decide
  simp only [fetchInstr, h]
  rcases hl with hl | hl | hl <;>
    simp only [hl, State.fetchBytes_one, State.fetchBytes_two, State.fetchBytes_three, decode, h,
      OpRow.decodeOperands] <;> rfl

/-- A next state of a step is a next state of the instruction fetched. -/
theorem step_next {s t : State} (h : step s = .next t) : ∃ i, fetchInstr s = .ok i ∧ exec i s = .next t := by
  unfold step at h
  split at h
  · cases h
  · next i hi => exact ⟨i, hi, h⟩

end Sys2Proof.Machine
end

