-- ==== Sys2Proof/Tests/Slice0.lean ====
section
/-! SUPPORT. Tests. The names of the step tests are the vectors of spec/95_test_vectors.md (L, S, T, K, U, W, Q, M, H, R), whose
expected results the spec derives by hand; the words of the decode tests are written out from 30_encoding.md R101 and R106. The
last part gives, for every obligation with hypotheses, a state and operands that meet them. -/

namespace Sys2Proof.Tests

open Sys2Proof Sys2Proof.Machine

/-! ### WellFormed -/

/-- R106's rows are accepted, with the largest operand each format takes. -/
theorem test_wellFormed_accepts :
    (SourceLine.mk .lda .absy 65535).wellFormed = true ∧ (SourceLine.mk .ldx .zpy 255).wellFormed = true ∧
      (SourceLine.mk .plp .imp 0).wellFormed = true := by decide

/-- First check: a pair that is no row of R106 is refused (R109 names the first). -/
theorem test_wellFormed_refuses_pairs :
    (SourceLine.mk .sta .imm 1).wellFormed = false ∧ (SourceLine.mk .ldx .zpx 1).wellFormed = false ∧
      (SourceLine.mk .ldx .absx 1).wellFormed = false ∧ (SourceLine.mk .ldy .zpy 1).wellFormed = false ∧
      (SourceLine.mk .stx .zpx 1).wellFormed = false ∧ (SourceLine.mk .sty .absx 1).wellFormed = false ∧
      (SourceLine.mk .tax .imm 1).wellFormed = false ∧ (SourceLine.mk .lda .imp 0).wellFormed = false := by decide

/-- Second check: an operand that the format's field cannot hold is refused. -/
theorem test_wellFormed_refuses_operands :
    (SourceLine.mk .lda .imm 256).wellFormed = false ∧ (SourceLine.mk .sta .zp 256).wellFormed = false ∧
      (SourceLine.mk .lda .abs 65536).wellFormed = false ∧ (SourceLine.mk .pha .imp 1).wellFormed = false := by decide

/-- Exactly 37 pairs are admitted (00_scope.md R9, `ADMITTED_SET`). -/
theorem test_wellFormed_37_pairs :
    (allMnemonics.flatMap fun m => [Mode.imp, .imm, .zp, .zpx, .zpy, .abs, .absx, .absy].filter (admitted m)).length = 37 :=
  rfl

/-! ### Decode: every constructor, from the bytes of R106 -/

/-- The load family, bit by bit from the opcode map. -/
theorem test_decode_load :
    decode [0xA9, 0x7F] = .ok (.ldaImm 0x7F, []) ∧ decode [0xA5, 0x7F] = .ok (.ldaZp 0x7F, []) ∧
    decode [0xB5, 0x7F] = .ok (.ldaZpx 0x7F, []) ∧ decode [0xAD, 0x34, 0x12] = .ok (.ldaAbs 0x1234, []) ∧
    decode [0xBD, 0x34, 0x12] = .ok (.ldaAbsx 0x1234, []) ∧ decode [0xB9, 0x34, 0x12] = .ok (.ldaAbsy 0x1234, []) ∧
    decode [0xA2, 0x7F] = .ok (.ldxImm 0x7F, []) ∧ decode [0xA6, 0x7F] = .ok (.ldxZp 0x7F, []) ∧
    decode [0xB6, 0x7F] = .ok (.ldxZpy 0x7F, []) ∧ decode [0xAE, 0x34, 0x12] = .ok (.ldxAbs 0x1234, []) ∧
    decode [0xBE, 0x34, 0x12] = .ok (.ldxAbsy 0x1234, []) ∧ decode [0xA0, 0x7F] = .ok (.ldyImm 0x7F, []) ∧
    decode [0xA4, 0x7F] = .ok (.ldyZp 0x7F, []) ∧ decode [0xB4, 0x7F] = .ok (.ldyZpx 0x7F, []) ∧
    decode [0xAC, 0x34, 0x12] = .ok (.ldyAbs 0x1234, []) ∧ decode [0xBC, 0x34, 0x12] = .ok (.ldyAbsx 0x1234, []) :=
  ⟨rfl, rfl, rfl, rfl, rfl, rfl, rfl, rfl, rfl, rfl, rfl, rfl, rfl, rfl, rfl, rfl⟩

/-- The store family, bit by bit from the opcode map. -/
theorem test_decode_store :
    decode [0x85, 0x7F] = .ok (.staZp 0x7F, []) ∧ decode [0x95, 0x7F] = .ok (.staZpx 0x7F, []) ∧
    decode [0x8D, 0x34, 0x12] = .ok (.staAbs 0x1234, []) ∧ decode [0x9D, 0x34, 0x12] = .ok (.staAbsx 0x1234, []) ∧
    decode [0x99, 0x34, 0x12] = .ok (.staAbsy 0x1234, []) ∧ decode [0x86, 0x7F] = .ok (.stxZp 0x7F, []) ∧
    decode [0x96, 0x7F] = .ok (.stxZpy 0x7F, []) ∧ decode [0x8E, 0x34, 0x12] = .ok (.stxAbs 0x1234, []) ∧
    decode [0x84, 0x7F] = .ok (.styZp 0x7F, []) ∧ decode [0x94, 0x7F] = .ok (.styZpx 0x7F, []) ∧
    decode [0x8C, 0x34, 0x12] = .ok (.styAbs 0x1234, []) :=
  ⟨rfl, rfl, rfl, rfl, rfl, rfl, rfl, rfl, rfl, rfl, rfl⟩

/-- The transfer family, bit by bit from the opcode map. -/
theorem test_decode_transfer :
    decode [0xAA] = .ok (.tax, []) ∧ decode [0xA8] = .ok (.tay, []) ∧
    decode [0x8A] = .ok (.txa, []) ∧ decode [0x98] = .ok (.tya, []) ∧
    decode [0xBA] = .ok (.tsx, []) ∧ decode [0x9A] = .ok (.txs, []) :=
  ⟨rfl, rfl, rfl, rfl, rfl, rfl⟩

/-- The stack family, bit by bit from the opcode map. -/
theorem test_decode_stack :
    decode [0x48] = .ok (.pha, []) ∧ decode [0x08] = .ok (.php, []) ∧
    decode [0x68] = .ok (.pla, []) ∧ decode [0x28] = .ok (.plp, []) :=
  ⟨rfl, rfl, rfl, rfl⟩

/-- The host's numbering: byte 1 is bits 15:8, byte 2 bits 23:16; the bits above the row's are 0. -/
theorem test_decodeTableWord :
    decodeTableWord 24 0x1234AD = some (.ldaAbs 0x1234) ∧ decodeTableWord 16 0x7FA9 = some (.ldaImm 0x7F) ∧
      decodeTableWord 8 0xAA = some .tax ∧ decodeTableWord 8 0xBD = some (.ldaAbsx 0) ∧
      decodeTableWord 8 0xFF = none := by decide

/-- The opcode map of R105, in increasing order: 37 bytes; the 219 others are unknown opcodes (R107). -/
def assignedBytes : List Byte :=
  [0x08, 0x28, 0x48, 0x68, 0x84, 0x85, 0x86, 0x8A, 0x8C, 0x8D, 0x8E, 0x94, 0x95, 0x96, 0x98, 0x99, 0x9A, 0x9D] ++
  [0xA0, 0xA2, 0xA4, 0xA5, 0xA6, 0xA8, 0xA9, 0xAA, 0xAC, 0xAD, 0xAE, 0xB4, 0xB5, 0xB6, 0xB9, 0xBA, 0xBC, 0xBD, 0xBE]

theorem test_unknown_bytes :
    assignedBytes.length = 37 ∧ ∀ op : Byte, (lookup op).isNone = !(assignedBytes.contains op) := by decide

/-- Bytes that end before the instruction does are refused by name. -/
theorem test_decode_truncated :
    decode [] = .error .truncated ∧ decode [0xA9] = .error .truncated ∧ decode [0xAD, 0x34] = .error .truncated :=
  ⟨rfl, rfl, rfl⟩

/-- The assembler on R109's and R110's forms, and on a pair it must refuse. -/
theorem test_assemble :
    assemble "LDA #$7F".toList = some [0xA9, 0x7F] ∧ assemble "LDX $FF,Y".toList = some [0xB6, 0xFF] ∧
      assemble "STA $0010".toList = some [0x8D, 0x10, 0x00] ∧ assemble ".byte $EA".toList = some [0xEA] ∧
      assemble "STA #$7F".toList = none := by decide

/-! ### Steps: the vectors of 95_test_vectors.md

The start state of the vectors: no cartridge, PC = 0x0600, the instruction's bytes at PC, some bytes of memory. -/

/-- The default start state of 95_test_vectors.md. -/
def start (bytes : List Byte) (mem : List (Addr × Byte)) : State :=
  mem.foldl (fun s e => s.rawWrite e.1 e.2) (State.placeBytes { State.reset with pc := 0x0600 } 0x0600 bytes)

/-- What one step returns, one thing of the state after it, and the packed flags and the PC after it. -/
def seen {α : Type} (s : State) (f : State → α) : HostReply × α × Byte × Addr :=
  let r := hostCall .step s
  (r.1, f r.2, r.2.flags.pack, r.2.pc)

/-- The start state with the flags of a packed byte. -/
def withP (s : State) (p : Byte) : State := { s with flags := Flags.unpack p }

theorem test_L1_ldaImm :
    seen (start [0xA9, 0x00] []) (·.a) = (.ok 2, 0x00, 0x02, 0x0602) := by decide
theorem test_L2_ldaImm :
    seen (withP (start [0xA9, 0x80] []) 0xFF) (·.a) = (.ok 2, 0x80, 0xFD, 0x0602) := by decide
theorem test_L4_ldaZp :
    seen (start [0xA5, 0x10] [(0x0010, 0xC3)]) (·.a) = (.ok 3, 0xC3, 0x80, 0x0602) := by decide
theorem test_L5_ldaZpx :
    seen { start [0xB5, 0xFF] [(0x0001, 0x11)] with x := 0x02 } (·.a) = (.ok 4, 0x11, 0x00, 0x0602) := by decide
theorem test_L6_ldaZpx :
    seen { start [0xB5, 0x80] [] with a := 0x55, x := 0x80 } (·.a) = (.ok 4, 0x00, 0x02, 0x0602) := by decide
theorem test_L7_ldaAbs :
    seen (start [0xAD, 0x34, 0x12] [(0x1234, 0x01)]) (·.a) = (.ok 4, 0x01, 0x00, 0x0603) := by decide
theorem test_L8_ldaAbsx :
    seen { start [0xBD, 0xFF, 0x00] [(0x0100, 0x42)] with x := 0x01 } (·.a) = (.ok 5, 0x42, 0x00, 0x0603) := by decide
theorem test_L9_ldaAbsx :
    seen { start [0xBD, 0x00, 0x02] [(0x0201, 0x7F)] with x := 0x01 } (·.a) = (.ok 4, 0x7F, 0x00, 0x0603) := by decide
theorem test_L11_ldaAbsy :
    seen { start [0xB9, 0xF0, 0x12] [] with a := 0x01, y := 0x20 } (·.a) = (.ok 5, 0x00, 0x02, 0x0603) := by decide
theorem test_L12_ldaAbsy :
    seen { start [0xB9, 0x00, 0x30] [(0x30FF, 0x80)] with y := 0xFF } (·.a) = (.ok 4, 0x80, 0x80, 0x0603) := by decide
theorem test_L13_ldxImm :
    seen { start [0xA2, 0x00] [] with x := 0x33 } (·.x) = (.ok 2, 0x00, 0x02, 0x0602) := by decide
theorem test_L14_ldxZp :
    seen (start [0xA6, 0x20] [(0x0020, 0x90)]) (·.x) = (.ok 3, 0x90, 0x80, 0x0602) := by decide
theorem test_L15_ldxZpy :
    seen { start [0xB6, 0xFF] [(0x007F, 0x05)] with y := 0x80 } (·.x) = (.ok 4, 0x05, 0x00, 0x0602) := by decide
theorem test_L17_ldxAbs :
    seen (start [0xAE, 0x00, 0x04] [(0x0400, 0x01)]) (·.x) = (.ok 4, 0x01, 0x00, 0x0603) := by decide
theorem test_L18_ldxAbsy :
    seen { start [0xBE, 0xFF, 0x04] [(0x0500, 0x80)] with y := 0x01 } (·.x) = (.ok 5, 0x80, 0x80, 0x0603) := by decide
theorem test_L19_ldxAbsy :
    seen { start [0xBE, 0x00, 0x04] [] with x := 0x12, y := 0x10 } (·.x) = (.ok 4, 0x00, 0x02, 0x0603) := by decide
theorem test_L20_ldyImm :
    seen (start [0xA0, 0xFF] []) (·.y) = (.ok 2, 0xFF, 0x80, 0x0602) := by decide
theorem test_L21_ldyZp :
    seen (start [0xA4, 0xFE] [(0x00FE, 0x7E)]) (·.y) = (.ok 3, 0x7E, 0x00, 0x0602) := by decide
theorem test_L22_ldyZpx :
    seen { start [0xB4, 0xFF] [] with x := 0x01, y := 0x09 } (·.y) = (.ok 4, 0x00, 0x02, 0x0602) := by decide
theorem test_L23_ldyAbs :
    seen (start [0xAC, 0xFF, 0xFF] [(0xFFFF, 0xA5)]) (·.y) = (.ok 4, 0xA5, 0x80, 0x0603) := by decide
theorem test_L24_ldyAbsx :
    seen { start [0xBC, 0x80, 0xFF] [(0x0000, 0x01)] with x := 0x80 } (·.y) = (.ok 5, 0x01, 0x00, 0x0603) := by decide
theorem test_L25_ldyAbsx :
    seen { start [0xBC, 0x00, 0x05] [(0x0505, 0xF0)] with x := 0x05 } (·.y) = (.ok 4, 0xF0, 0x80, 0x0603) := by decide
theorem test_S1_staZp :
    seen { withP (start [0x85, 0x10] []) 0xFF with a := 0x5A } (·.rawRead 0x0010) = (.ok 3, 0x5A, 0xFF, 0x0602) := by decide
theorem test_S2_staZpx :
    seen { start [0x95, 0xFF] [] with a := 0x77, x := 0x02 } (·.rawRead 0x0001) = (.ok 4, 0x77, 0x00, 0x0602) := by decide
theorem test_S4_staAbs :
    seen { start [0x8D, 0x00, 0x80] [] with a := 0x12 } (·.rawRead 0x8000) = (.ok 4, 0x12, 0x00, 0x0603) := by decide
theorem test_S5_staAbsx :
    seen { start [0x9D, 0xFF, 0x02] [] with a := 0x5A, x := 0x01 } (·.rawRead 0x0300) = (.ok 5, 0x5A, 0x00, 0x0603) := by decide
theorem test_S6_staAbsx :
    seen { start [0x9D, 0xFF, 0xFF] [] with a := 0x3C, x := 0x02 } (·.rawRead 0x0001) = (.ok 5, 0x3C, 0x00, 0x0603) := by decide
theorem test_S7_staAbsy :
    seen { start [0x99, 0x00, 0x03] [] with a := 0x01, y := 0xFF } (·.rawRead 0x03FF) = (.ok 5, 0x01, 0x00, 0x0603) := by decide
theorem test_S8_staAbsy :
    seen { start [0x99, 0xFF, 0x03] [] with a := 0x02, y := 0x01 } (·.rawRead 0x0400) = (.ok 5, 0x02, 0x00, 0x0603) := by decide
theorem test_S9_stxZp :
    seen { start [0x86, 0x00] [] with x := 0xAB } (·.rawRead 0x0000) = (.ok 3, 0xAB, 0x00, 0x0602) := by decide
theorem test_S10_stxZpy :
    seen { start [0x96, 0xFF] [] with x := 0xCD, y := 0x01 } (·.rawRead 0x0000) = (.ok 4, 0xCD, 0x00, 0x0602) := by decide
theorem test_S11_stxAbs :
    seen (start [0x8E, 0x34, 0x12] [(0x1234, 0x77)]) (·.rawRead 0x1234) = (.ok 4, 0x00, 0x00, 0x0603) := by decide
theorem test_S12_styZp :
    seen { withP (start [0x84, 0x44] []) 0x02 with y := 0x80 } (·.rawRead 0x0044) = (.ok 3, 0x80, 0x02, 0x0602) := by decide
theorem test_S13_styZpx :
    seen { start [0x94, 0xFE] [] with x := 0x03, y := 0x61 } (·.rawRead 0x0001) = (.ok 4, 0x61, 0x00, 0x0602) := by decide
theorem test_S14_styAbs :
    seen { start [0x8C, 0xFF, 0x01] [] with y := 0xEE } (·.rawRead 0x01FF) = (.ok 4, 0xEE, 0x00, 0x0603) := by decide
theorem test_T1_tax :
    seen { withP (start [0xAA] []) 0x80 with x := 0x11 } (·.x) = (.ok 2, 0x00, 0x02, 0x0601) := by decide
theorem test_T2_tax :
    seen { start [0xAA] [] with a := 0x80 } (·.x) = (.ok 2, 0x80, 0x80, 0x0601) := by decide
theorem test_T3_tay :
    seen { start [0xA8] [] with y := 0x44 } (·.y) = (.ok 2, 0x00, 0x02, 0x0601) := by decide
theorem test_T4_tay :
    seen { withP (start [0xA8] []) 0x41 with a := 0xC0 } (·.y) = (.ok 2, 0xC0, 0xC1, 0x0601) := by decide
theorem test_T5_txa :
    seen { start [0x8A] [] with a := 0x12, x := 0xFF } (·.a) = (.ok 2, 0xFF, 0x80, 0x0601) := by decide
theorem test_T6_txa :
    seen { start [0x8A] [] with a := 0x12 } (·.a) = (.ok 2, 0x00, 0x02, 0x0601) := by decide
theorem test_T7_tya :
    seen { withP (start [0x98] []) 0x82 with y := 0x7F } (·.a) = (.ok 2, 0x7F, 0x00, 0x0601) := by decide
theorem test_T8_tya :
    seen { start [0x98] [] with y := 0xC0 } (·.a) = (.ok 2, 0xC0, 0x80, 0x0601) := by decide
theorem test_T9_tsx :
    seen { start [0xBA] [] with x := 0x55, sp := 0x00 } (·.x) = (.ok 2, 0x00, 0x02, 0x0601) := by decide
theorem test_T10_tsx :
    seen (start [0xBA] []) (·.x) = (.ok 2, 0xFD, 0x80, 0x0601) := by decide
theorem test_T11_txs :
    seen (start [0x9A] []) (·.sp) = (.ok 2, 0x00, 0x00, 0x0601) := by decide
theorem test_T12_txs :
    seen { withP (start [0x9A] []) 0x82 with x := 0xFF } (·.sp) = (.ok 2, 0xFF, 0x82, 0x0601) := by decide
theorem test_K1_pha :
    seen { start [0x48] [] with a := 0xC3 } (fun t => (t.sp, t.rawRead 0x01FD)) = (.ok 3, (0xFC, 0xC3), 0x00, 0x0601) := by decide
theorem test_K2_pha :
    seen { start [0x48] [] with a := 0x01, sp := 0x00 } (fun t => (t.sp, t.rawRead 0x0100)) = (.ok 3, (0xFF, 0x01), 0x00, 0x0601) := by decide
theorem test_K3_php :
    seen { withP (start [0x08] []) 0x83 with sp := 0xFC } (fun t => (t.sp, t.rawRead 0x01FC)) = (.ok 3, (0xFB, 0x83), 0x83, 0x0601) := by decide
theorem test_K6_php :
    seen { withP (start [0x08] []) 0x30 with sp := 0xFF } (fun t => (t.sp, t.rawRead 0x01FF)) = (.ok 3, (0xFE, 0x30), 0x30, 0x0601) := by decide
theorem test_K7_pla :
    seen { start [0x68] [] with a := 0x55, sp := 0xFC } (fun t => (t.sp, t.a)) = (.ok 4, (0xFD, 0x00), 0x02, 0x0601) := by decide
theorem test_K8_pla :
    seen { start [0x68] [(0x0100, 0x80)] with sp := 0xFF } (fun t => (t.sp, t.a)) = (.ok 4, (0x00, 0x80), 0x80, 0x0601) := by decide
theorem test_K9_plp :
    seen { withP (start [0x28] [(0x01FC, 0x80)]) 0x02 with sp := 0xFB } (·.sp) = (.ok 4, 0xFC, 0x80, 0x0601) := by decide
theorem test_K11_plp :
    seen (start [0x28] [(0x01FE, 0xFF)]) (·.sp) = (.ok 4, 0xFE, 0xFF, 0x0601) := by decide

/-- U1: an unknown opcode changes nothing, PC included. -/
theorem test_U1_unknown :
    hostCall .step (withP { start [0xFF] [] with a := 0x12, x := 0x34, y := 0x56, sp := 0x78 } 0xC3) =
      (.unknownOpcode 0xFF, withP { start [0xFF] [] with a := 0x12, x := 0x34, y := 0x56, sp := 0x78 } 0xC3) := by decide
/-- U3, as the step answers it. -/
theorem test_U3_unknown : step (start [0x4C, 0x00, 0x80] []) = .fault (.unknownOpcode 0x4C) := rfl

/-- W1: the operand byte is fetched at 0x0000 after the opcode at 0xFFFF. -/
theorem test_W1_pc_wraps :
    seen (State.placeBytes { State.reset with pc := 0xFFFF } 0xFFFF [0xA9, 0x42]) (·.a) = (.ok 2, 0x42, 0x00, 0x0001) := by
  decide
/-- W2: the operand word is fetched at 0xFFFF and 0x0000. -/
theorem test_W2_pc_wraps :
    seen (State.rawWrite (State.placeBytes { State.reset with pc := 0xFFFE } 0xFFFE [0xAD, 0x34, 0x12]) 0x1234 0x01) (·.a) =
      (.ok 4, 0x01, 0x00, 0x0001) := by decide

/-! ### withFetchWord, and the run from reset -/

/-- The word is the first instruction after reset. -/
theorem test_withFetchWord :
    seen (State.reset.withFetchWord 16 0x80A9) (·.a) = (.ok 2, 0x80, 0x80, 0x0002) ∧
      seen (State.reset.withFetchWord 24 0x12348D) (·.rawRead 0x1234) = (.ok 4, 0x00, 0x00, 0x0003) ∧
      seen (State.reset.withFetchWord 8 0xBA) (·.x) = (.ok 2, 0xFD, 0x80, 0x0001) := by decide

/-- With nothing placed, the first step fetches the 0x00 of empty memory, which is no opcode (70_reset_and_hazards.md R244). -/
theorem test_step_from_reset : step State.reset = .fault (.unknownOpcode 0x00) := rfl

/-! ### Reset (70_reset_and_hazards.md R240-R243) -/

/-- R1. -/
theorem test_R1_reset : construct none = State.reset := rfl
/-- R2: the reset vector placed by raw writes. -/
theorem test_R2_reset : ((State.reset.rawWrite 0xFFFC 0x00).rawWrite 0xFFFD 0x06).cpuReset.pc = 0x0600 := by decide
/-- R6: registers and flags are reset, memory is not. -/
theorem test_R6_reset :
    let s := (hostCall .reset { withP (start [] [(0x0010, 0xAA), (0xFFFD, 0x06)]) 0xFF with
      a := 0x55, x := 0x66, y := 0x77, sp := 0x10 }).2
    (s.a, s.x, s.y, s.sp, s.flags.pack, s.pc, s.rawRead 0x0010) = (0x00, 0x00, 0x00, 0xFD, 0x00, 0x0600, 0xAA) := by decide

/-! ### Cartridges (95_test_vectors.md sections 2.8 and 2.9) -/

/-- `n` zero bytes. -/
def zeros (n : Nat) : List Byte := List.replicate n 0x00

@[simp] theorem zeros_length (n : Nat) : (zeros n).length = n := List.length_replicate

/-- M1's cartridge: one program bank, one character bank; M11's first program byte. -/
def oneBank : CartState where
  valid := true
  mapperId := 0
  prgBanks := 1
  chrBanks := 1
  prg := [0xAD, 0x00, 0x00, 0x00, 0x00, 0x77] ++ zeros 16378
  chr := 0x0F :: zeros 8191
  chrIsRam := false

/-- M3's cartridge: two program banks. -/
def twoBank : CartState := { oneBank with prgBanks := 2, prg := [0x00, 0x00, 0x00, 0x00, 0x00, 0x11] ++ zeros 32762 }

/-- The cartridge with character RAM. -/
def ramCart : CartState := { oneBank with chrBanks := 0, chr := zeros 8192, chrIsRam := true }

/-- M9's cartridge: no program bank. -/
def noBank : CartState := { oneBank with prgBanks := 0, prg := [] }

theorem oneBank_wf : oneBank.wf = true := by
  simp [CartState.wf, oneBank, Config.prgBankSize, Config.chrBankSize, mapperOf, Config.directMapId]
theorem twoBank_wf : twoBank.wf = true := by
  simp [CartState.wf, twoBank, oneBank, Config.prgBankSize, Config.chrBankSize, mapperOf, Config.directMapId]
theorem noBank_wf : noBank.wf = true := by
  simp [CartState.wf, noBank, oneBank, Config.prgBankSize, Config.chrBankSize, mapperOf, Config.directMapId]
theorem ramCart_wf : ramCart.wf = true := by
  simp [CartState.wf, ramCart, oneBank, Config.prgBankSize, Config.chrRamSize, mapperOf, Config.directMapId]

/-- M1, M4: both halves of the window answer for one bank, nothing answers below it. -/
theorem test_M1_mirror :
    oneBank.cpuRead 0x8005 = some 0x77 ∧ oneBank.cpuRead 0xC005 = some 0x77 ∧ oneBank.cpuRead 0x7FFF = none :=
  ⟨rfl, rfl, rfl⟩
/-- M3: two banks are mapped directly. -/
theorem test_M3_direct : twoBank.cpuRead 0x8005 = some 0x11 := rfl
/-- M9: without a program bank every CPU read is declined, and the AddressSpace answers. -/
theorem test_M9_no_bank :
    noBank.cpuRead 0x8000 = none ∧
      ({ start [] [(0x8000, 0x66)] with cart := some noBank } : State).memRead 0x8000 = 0x66 := ⟨rfl, rfl⟩
/-- M6, M7: the character window, and ROM that no write reaches. -/
theorem test_M6_video :
    oneBank.videoRead 0x0000 = some 0x0F ∧ oneBank.videoRead 0x2000 = none ∧
      (oneBank.videoWrite 0x0010 0xAA).1 = false := ⟨rfl, rfl, rfl⟩
/-- M8: character RAM. -/
theorem test_M8_video_ram :
    (ramCart.videoWrite 0x0010 0xAA).1 = true ∧ (ramCart.videoWrite 0x0010 0xAA).2.videoRead 0x0010 = some 0xAA ∧
      (ramCart.videoWrite 0x2000 0x01).1 = false := by
  refine ⟨?_, ?_, rfl⟩ <;>
    simp [CartState.videoWrite, CartState.videoRead, CartState.mapper, mapperOf, Mapper.videoWriteTranslate,
      Mapper.videoReadTranslate, ramCart, oneBank, Config.directMapId, Config.chrWindowTop]
/-- M11: the store goes under the program byte, which the CPU goes on reading; the raw read sees it. -/
theorem test_M11_shadowed :
    let s := { start [] [] with cart := some oneBank, a := 0x5A }
    exec (.staAbs 0x8000) s = .next ((s.advance 3).rawWrite 0x8000 0x5A) ∧
      (s.rawWrite 0x8000 0x5A).memRead 0x8000 = 0xAD ∧ (s.rawWrite 0x8000 0x5A).rawRead 0x8000 = 0x5A :=
  ⟨rfl, rfl, rfl⟩
/-- M10: an invalid cartridge declines. -/
theorem test_M10_invalid :
    CartState.invalid.cpuRead 0x8000 = none ∧ CartState.invalid.cpuWrite 0x8000 0x12 = (false, CartState.invalid) ∧
      CartState.invalid.videoRead 0x0000 = none := ⟨rfl, rfl, rfl⟩

/-- `hdr(p, c, h6, h7)`. -/
def hdr (p c h6 h7 : Byte) : List Byte := [0x4E, 0x45, 0x53, 0x1A, p, c, h6, h7] ++ zeros 8

/-- H1, H12: the exact length is enough, and bytes after the data are ignored. -/
theorem test_H1_load :
    (load (some (hdr 1 1 0 0 ++ zeros 24576))).error = none ∧
      (load (some (hdr 1 1 0 0 ++ zeros 24676))).error = none := by
  constructor <;> simp [load_some, hdr, prgStart, prgLength, chrLength, headerByte, headerMapperId, Config.headerSize,
    Config.prgBankSize, Config.chrBankSize]
/-- H3, H4: one character byte short; short of the trainer. -/
theorem test_H3_truncated :
    (load (some (hdr 1 1 0 0 ++ zeros 24575))).error = some .truncated ∧
      (load (some (hdr 1 1 4 0 ++ zeros 24576))).error = some .truncated := by
  constructor <;> simp [load_some, hdr, prgStart, prgLength, chrLength, headerByte, Config.headerSize, Config.prgBankSize,
    Config.chrBankSize, Config.trainerSize, LoadResult.failed]
/-- H6, H7: either nibble makes the identifier unknown. -/
theorem test_H6_unknown_mapper :
    (load (some (hdr 1 1 0x10 0 ++ zeros 24576))).error = some .unknownMapper ∧
      (load (some (hdr 1 1 0 0x10 ++ zeros 24576))).error = some .unknownMapper := by
  constructor <;> simp [load_some, hdr, prgStart, prgLength, chrLength, headerByte, headerMapperId, Config.headerSize,
    Config.prgBankSize, Config.chrBankSize, LoadResult.failed]
/-- H11, H14: shorter than a header; a file that does not open. -/
theorem test_H11_short :
    (load (some (zeros 15))).error = some .truncated ∧ (load none).error = some .openFailed := ⟨rfl, rfl⟩

/-! ### Witnesses: a state and operands that meet every hypothesis of an obligation -/

/-- A state with an instruction's bytes at PC. -/
def atPc (bytes : List Byte) : State := start bytes []

/-- The three bytes at PC. -/
def bytesAtPc (s : State) : List Byte := [s.memRead s.pc, s.memRead (s.pc + 1), s.memRead (s.pc + 2)]

theorem witness_DecodeInvertsEncode :
    (Instr.ldaAbs 0xFFFF).wellFormed = true ∧ Instr.pha.wellFormed = true := by decide
theorem witness_EncodeInvertsDecode : decode [0xB6, 0xFF, 0x00] = .ok (.ldxZpy 0xFF, [0x00]) := rfl
theorem witness_OpcodeAloneSelectsForm :
    decode [0xAD, 0x00, 0x00] = .ok (.ldaAbs 0x0000, []) ∧ decode [0xAD, 0xFF, 0xFF, 0x01] = .ok (.ldaAbs 0xFFFF, [0x01]) :=
  ⟨rfl, rfl⟩
theorem witness_AssemblerRefusesOtherPairs :
    [0xFF].length + 1 = Mode.imm.length ∧ admitted .sta .imm = false := by decide
theorem witness_StepRunsDecodedInstruction :
    let s := atPc [0xA9, 0x80]
    decode (bytesAtPc s) = .ok (.ldaImm 0x80, [0x00]) := rfl
theorem witness_UnassignedByteRaisesUnknownOpcode :
    ∀ i : Instr, (encode i).head? ≠ some ((atPc [0xFF]).memRead (atPc [0xFF]).pc) := by
  intro i
  have h : (atPc [0xFF]).memRead (atPc [0xFF]).pc = 0xFF := rfl
  rw [h]
  cases i <;> simp [encode]
theorem witness_CallerGetsCyclesAndNextState :
    let s := { atPc [0xBD, 0xFF, 0x00] with x := 0x01 }
    decode (bytesAtPc s) = .ok (.ldaAbsx 0x00FF, []) := rfl

/-- A three-byte instruction at the top of the space, where PC wraps. -/
theorem witness_PcAdvancesByLength :
    exec (.ldaAbs 0x1234) { State.reset with pc := 0xFFFF } =
      .next { State.reset with pc := 0x0002, flags := { Flags.reset with z := true } } := rfl

/-- One state for each clause, at the edge of its range. -/
theorem witness_UnindexedAndZpxOperands :
    (decode (bytesAtPc (atPc [0xA9, 0xFF])) = .ok (.ldaImm 0xFF, [0x00]) ∧ (Instr.ldaImm 0xFF).mode = .imm) ∧
      (decode (bytesAtPc (atPc [0x85, 0xFF])) = .ok (.staZp 0xFF, [0x00]) ∧ (Instr.staZp 0xFF).mode = .zp) ∧
      (decode (bytesAtPc (atPc [0xAC, 0xFF, 0xFF])) = .ok (.ldyAbs 0xFFFF, []) ∧ (Instr.ldyAbs 0xFFFF).mode = .abs) ∧
      (decode (bytesAtPc (atPc [0xB5, 0xFF])) = .ok (.ldaZpx 0xFF, [0x00]) ∧ (Instr.ldaZpx 0xFF).mode = .zpx) :=
  ⟨⟨rfl, rfl⟩, ⟨rfl, rfl⟩, ⟨rfl, rfl⟩, ⟨rfl, rfl⟩⟩

/-- ZPX at its wrap: 0xFF + 0x01 is 0x00, not 0x100. -/
theorem witness_UnindexedAndZpxOperands_wrap :
    let s := { atPc [0xB5, 0xFF] with x := 0x01 }
    decode (bytesAtPc s) = .ok (.ldaZpx 0xFF, [0x00]) ∧
      resolve (.ldaZpx 0xFF) s = .ea 0x0000 false := ⟨rfl, rfl⟩

/-- ZPY at its wrap, ABSX past 0xFFFF, ABSY at the last address of the page. -/
theorem witness_IndexedOperands :
    (let s := { atPc [0xB6, 0xFF] with y := 0x01 }
     decode (bytesAtPc s) = .ok (.ldxZpy 0xFF, [0x00]) ∧
       resolve (.ldxZpy 0xFF) s = .ea 0x0000 false) ∧
      (let s := { atPc [0x9D, 0xFF, 0xFF] with x := 0x01 }
       decode (bytesAtPc s) = .ok (.staAbsx 0xFFFF, []) ∧
         resolve (.staAbsx 0xFFFF) s = .ea 0x0000 true) ∧
      (let s := { atPc [0xB9, 0x00, 0x30] with y := 0xFF }
       decode (bytesAtPc s) = .ok (.ldaAbsy 0x3000, []) ∧
         resolve (.ldaAbsy 0x3000) s = .ea 0x30FF false) := ⟨⟨rfl, rfl⟩, ⟨rfl, rfl⟩, ⟨rfl, rfl⟩⟩

/-- One instruction for each clause. -/
theorem witness_OneFlagFunction :
    (∃ t, exec (.ldaImm 0x00) State.reset = .next t) ∧ (∃ t, exec .tsx State.reset = .next t) ∧
      (∃ t, exec .tay State.reset = .next t) ∧ (∃ t, exec .txs State.reset = .next t) :=
  ⟨⟨_, rfl⟩, ⟨_, rfl⟩, ⟨_, rfl⟩, ⟨_, rfl⟩⟩
theorem witness_FlagWriters :
    (∃ t, exec .pla (withP State.reset 0xFF) = .next t) ∧ (∃ t, exec (.staZp 0xFF) (withP State.reset 0xFF) = .next t) :=
  ⟨⟨_, rfl⟩, ⟨_, rfl⟩⟩
theorem witness_OnlyPhpReadsFlags :
    (∃ t, exec .plp (withP State.reset 0xFF) = .next t) ∧ (∃ t, exec .pla (withP State.reset 0xFF) = .next t) :=
  ⟨⟨_, rfl⟩, ⟨_, rfl⟩⟩

/-- An instruction that meets all four premises at once, and one for each. -/
theorem witness_RegisterWriters :
    (∃ t, exec (.staZp 0x10) State.reset = .next t) ∧
      Mnemonic.sta ∉ [Mnemonic.lda, .txa, .tya, .pla] ∧ Mnemonic.sta ∉ [Mnemonic.ldx, .tax, .tsx] ∧
      Mnemonic.sta ∉ [Mnemonic.ldy, .tay] ∧ Mnemonic.sta ∉ [Mnemonic.txs, .pha, .php, .pla, .plp] :=
  ⟨⟨_, rfl⟩, by decide⟩
theorem witness_RegisterReaders :
    (∃ t, exec (.ldaAbs 0x10) State.reset = .next t) ∧
      Mnemonic.lda ∉ [Mnemonic.sta, .tax, .tay, .pha] ∧ Mnemonic.lda ∉ [Mnemonic.stx, .txa, .txs] ∧
      Mnemonic.lda ∉ [Mnemonic.sty, .tya] ∧ Mnemonic.lda ∉ [Mnemonic.tsx, .pha, .php, .pla, .plp] :=
  ⟨⟨_, rfl⟩, by decide⟩
/-- For each register an instruction that writes it and does not read it, one of them in a mode with the other index. -/
theorem witness_RegisterReaders_writers :
    ((∃ t, exec .pla State.reset = .next t) ∧ Mnemonic.pla ∉ [Mnemonic.sta, .tax, .tay, .pha]) ∧
      ((∃ t, exec (.ldxAbsy 0xFFFF) State.reset = .next t) ∧ Mnemonic.ldx ∉ [Mnemonic.stx, .txa, .txs] ∧
        (Instr.ldxAbsy 0xFFFF).mode ≠ .zpx ∧ (Instr.ldxAbsy 0xFFFF).mode ≠ .absx) ∧
      ((∃ t, exec (.ldyZpx 0xFF) State.reset = .next t) ∧ Mnemonic.ldy ∉ [Mnemonic.sty, .tya] ∧
        (Instr.ldyZpx 0xFF).mode ≠ .zpy ∧ (Instr.ldyZpx 0xFF).mode ≠ .absy) ∧
      (∃ t, exec .txs State.reset = .next t) ∧ Mnemonic.txs ∉ [Mnemonic.tsx, .pha, .php, .pla, .plp] :=
  ⟨⟨⟨_, rfl⟩, by decide⟩, ⟨⟨_, rfl⟩, by decide⟩, ⟨⟨_, rfl⟩, by decide⟩, ⟨_, rfl⟩, by decide⟩
theorem witness_OtherInstructionsStoreNothing :
    Instr.plp.mnemonic ∉ [Mnemonic.sta, .stx, .sty, .pha, .php] ∧ ∃ t, exec .plp State.reset = .next t :=
  ⟨by decide, _, rfl⟩

/-- A state with one program bank attached. -/
def withCart : State := { start [] [] with cart := some oneBank, a := 0x5A }

theorem withCart_inv : withCart.inv = true := by
  have hm : Memory.wf withCart.space = true := rfl
  have hc : withCart.cart = some oneBank := rfl
  simp [State.inv, hm, hc, oneBank_wf]

/-- withFetchWord where the cartridge answers the fetch: the word is placed in the program buffer (log 9). -/
theorem test_withFetchWord_cartridge :
    seen (State.withFetchWord { withCart with pc := 0x8000 } 16 0x80A9) (·.a) = (.ok 2, 0x80, 0x80, 0x8002) := rfl

/-- A store that the cartridge declines to hold and goes on answering for: M11. -/
theorem witness_StoresChangeOneByte :
    withCart.inv = true ∧ resolve (.staAbs 0x8000) withCart = .ea 0x8000 false ∧
      withCart.cartRead 0x8000 = some 0xAD ∧ ∃ t, exec (.staAbs 0x8000) withCart = .next t :=
  ⟨withCart_inv, rfl, rfl, _, rfl⟩
/-- Stores of X and Y to bytes that no cartridge claims, at the ends of the space. -/
theorem witness_StoresChangeOneByte_unclaimed :
    State.reset.inv = true ∧
      (resolve (.stxZp 0x00) State.reset = .ea 0x0000 false ∧ State.reset.cartRead 0x0000 = none ∧
        ∃ t, exec (.stxZp 0x00) State.reset = .next t) ∧
      (resolve (.styAbs 0xFFFF) State.reset = .ea 0xFFFF false ∧ State.reset.cartRead 0xFFFF = none ∧
        ∃ t, exec (.styAbs 0xFFFF) State.reset = .next t) :=
  ⟨rfl, ⟨rfl, rfl, _, rfl⟩, ⟨rfl, rfl, _, rfl⟩⟩
theorem witness_PushesChangeOneStackByte :
    State.inv { State.reset with sp := 0x00 } = true ∧
      (∃ t, exec .pha { State.reset with sp := 0x00 } = .next t) ∧
      ∃ t, exec .php { State.reset with sp := 0x00 } = .next t := ⟨rfl, ⟨_, rfl⟩, _, rfl⟩
theorem witness_StepNeverChangesCartridge : ∃ t, step { atPc [0xAA] with cart := some oneBank } = .next t := ⟨_, rfl⟩
theorem witness_CharacterMemoryIsInvisible :
    ({ atPc [0xAA] with cart := some ramCart } : State).cart = some ramCart ∧
      ∃ t, step { atPc [0xAA] with cart := some ramCart } = .next t := ⟨rfl, _, rfl⟩
/-- The two ends of the stack page. -/
theorem witness_PushThenPullOperations :
    ({ State.reset with sp := 0x00 } : State).sp = 0x00 ∧ ({ State.reset with sp := 0xFF } : State).sp = 0xFF :=
  ⟨rfl, rfl⟩
/-- Q1, at SP = 0x00. -/
theorem witness_PhaThenPlaRestoresA :
    let s := { State.reset with a := 0x80, sp := 0x00 }
    s.inv = true ∧ ∃ t u, exec .pha s = .next t ∧ exec .pla t = .next u := ⟨rfl, _, _, rfl, rfl⟩
/-- Q3: between PHP and PLP the flags change. -/
theorem witness_PhpThenPlpRestoresFlags :
    let s := withP State.reset 0xC3
    s.inv = true ∧ ∃ t w, exec .php s = .next t ∧
      (withP t 0x00).sp = t.sp ∧
      (withP t 0x00).memRead (0x0100 + s.sp.setWidth 16) = t.memRead (0x0100 + s.sp.setWidth 16) ∧
      exec .plp (withP t 0x00) = .next w := ⟨rfl, _, _, rfl, rfl, rfl, rfl⟩
theorem witness_StepKeepsInvariant :
    (atPc [0x48]).inv = true ∧ ∃ t, step (atPc [0x48]) = .next t := ⟨rfl, _, rfl⟩
theorem witness_HostCallsKeepInvariant :
    State.inv { withCart with cart := some ramCart } = true := by
  have hm : Memory.wf withCart.space = true := rfl
  simp [State.inv, hm, ramCart_wf]
theorem witness_ReachableStatesHaveInvariant :
    Reachable (hostCall (.write 0x0000 0xA9) (construct (some (load none).cart))).2 :=
  .call _ _ (.construct _ fun _ h => ⟨none, (Option.some.inj h).symm⟩)
/-- Two steps, the first of them past the top of the space. -/
theorem witness_RunsGoStraightOn :
    ∃ t, runsTo 2 (State.placeBytes { State.reset with pc := 0xFFFF } 0xFFFF [0xA9, 0x42, 0xAA]) t := ⟨_, rfl⟩
/-- The ends of the window, for one and for two banks, and the address below it. -/
theorem witness_DirectMapCpuReads :
    (oneBank.valid = true ∧ oneBank.mapperId = 0 ∧ (0x7FFF : Addr).toNat < 0x8000 ∧ oneBank.cpuRead 0x7FFF = none) ∧
      (oneBank.prgBanks.toNat ≤ 1 ∧ oneBank.cpuRead 0x8000 = some 0xAD) ∧
      (twoBank.valid = true ∧ twoBank.mapperId = 0 ∧ 2 ≤ twoBank.prgBanks.toNat ∧ twoBank.cpuRead 0x8000 = some 0x00) :=
  ⟨⟨rfl, rfl, by decide, rfl⟩, ⟨by decide, rfl⟩, ⟨rfl, rfl, by decide, rfl⟩⟩
theorem witness_OneBankIsMirrored :
    oneBank.wf = true ∧ oneBank.valid = true ∧ oneBank.prgBanks = 1 ∧ 0x8000 ≤ (0x8000 : Addr).toNat :=
  ⟨oneBank_wf, rfl, rfl, by decide⟩
theorem witness_InvalidCartridgeDeclines :
    (construct (some CartState.invalid)).cart = some CartState.invalid ∧ CartState.invalid.valid = false := ⟨rfl, rfl⟩
/-- RAM at the top of the character window; the address above it; ROM. -/
theorem witness_VideoWrites :
    (ramCart.wf = true ∧ ramCart.valid = true ∧ (0x1FFF : Addr).toNat ≤ 0x1FFF ∧ ramCart.chrIsRam = true) ∧
      0x1FFF < (0x2000 : Addr).toNat ∧ (oneBank.wf = true ∧ oneBank.valid = true ∧ oneBank.chrIsRam = false) :=
  ⟨⟨ramCart_wf, rfl, by decide, rfl⟩, by decide, oneBank_wf, rfl, rfl⟩
/-- The ends of the character window, in ROM, and the address above it. -/
theorem witness_DirectMapVideoReads :
    (oneBank.wf = true ∧ oneBank.valid = true ∧ oneBank.mapperId = 0) ∧ (0x0000 : Addr).toNat ≤ 0x1FFF ∧
      (0x1FFF : Addr).toNat ≤ 0x1FFF ∧ 0x1FFF < (0x2000 : Addr).toNat :=
  ⟨⟨oneBank_wf, rfl, rfl⟩, by decide⟩
theorem witness_WritesUnderCartridgeAreShadowed :
    withCart.inv = true ∧ withCart.cartRead 0x8000 = some 0xAD ∧ withCart.cartRead 0xC005 = some 0x77 ∧
      withCart.cartRead 0x7FFF = none :=
  ⟨withCart_inv, rfl, rfl, rfl⟩
theorem witness_RawAccessesBypassCartridge : withCart.inv = true := withCart_inv
/-- No character bank, and one. -/
theorem witness_LoadedBuffers :
    ((load (some (hdr 1 0 0 0 ++ zeros 16384))).error = none ∧
        (load (some (hdr 1 0 0 0 ++ zeros 16384))).cart.chrBanks = 0) ∧
      (load (some (hdr 0 1 0 0 ++ zeros 8192))).error = none ∧
        (load (some (hdr 0 1 0 0 ++ zeros 8192))).cart.chrBanks ≠ 0 := by
  refine ⟨⟨?_, ?_⟩, ?_, ?_⟩ <;> simp [load_some, loadedCart, hdr, prgStart, prgLength, chrLength, headerByte, headerMapperId,
    Config.headerSize, Config.prgBankSize, Config.chrBankSize]
/-- One bank, two banks, an invalid cartridge, none. -/
theorem witness_ResetVectorSource :
    (withCart.cart = some oneBank ∧ oneBank.wf = true ∧ oneBank.valid = true ∧ oneBank.prgBanks = 1) ∧
      ((construct (some twoBank)).cart = some twoBank ∧ twoBank.wf = true ∧ twoBank.valid = true ∧
        2 ≤ twoBank.prgBanks.toNat) ∧
      (∃ c, (construct (some CartState.invalid)).cart = some c ∧ c.valid = false) ∧ State.reset.cart = none :=
  ⟨⟨rfl, oneBank_wf, rfl, rfl⟩, ⟨rfl, twoBank_wf, rfl, by decide⟩, ⟨_, rfl, rfl⟩, rfl⟩
/-- A valid cartridge without a program bank: M9's. -/
theorem witness_ResetVectorSource_no_bank :
    (construct (some noBank)).cart = some noBank ∧ noBank.wf = true ∧ noBank.valid = true ∧ noBank.prgBanks = 0 :=
  ⟨rfl, noBank_wf, rfl, rfl⟩
/-- STA over the next opcode with an unassigned byte (Program 4). -/
theorem witness_NextFetchSeesStore :
    let s := { atPc [0x8D, 0x03, 0x06] with a := 0xFF }
    s.inv = true ∧ (Instr.staAbs 0x0603).mnemonic = .sta ∧ (0xFF : Byte) = s.a ∧
      (∃ crossed, resolve (.staAbs 0x0603) s = .ea (s.pc + BitVec.ofNat 16 (Instr.staAbs 0x0603).length) crossed) ∧
      s.cartRead (s.pc + BitVec.ofNat 16 (Instr.staAbs 0x0603).length) = none ∧
      (∃ t, exec (.staAbs 0x0603) s = .next t) ∧ ∀ j : Instr, (encode j).head? ≠ some 0xFF := by
  refine ⟨rfl, rfl, rfl, ⟨_, rfl⟩, rfl, ⟨_, rfl⟩, fun j => ?_⟩
  cases j <;> simp [encode]
/-- STX and STY over the next opcode with assigned bytes. -/
theorem witness_NextFetchSeesStore_assigned :
    let s := { atPc [0x8E, 0x03, 0x06] with x := 0xAA, y := 0x28 }
    s.inv = true ∧
      ((∃ crossed, resolve (.stxAbs 0x0603) s = .ea (s.pc + BitVec.ofNat 16 (Instr.stxAbs 0x0603).length) crossed) ∧
        (∃ t, exec (.stxAbs 0x0603) s = .next t) ∧ (encode .tax).head? = some s.x) ∧
      ((∃ crossed, resolve (.styAbs 0x0603) s = .ea (s.pc + BitVec.ofNat 16 (Instr.styAbs 0x0603).length) crossed) ∧
        (∃ t, exec (.styAbs 0x0603) s = .next t) ∧ (encode .plp).head? = some s.y) ∧
      s.cartRead 0x0603 = none :=
  ⟨rfl, ⟨⟨_, rfl⟩, ⟨_, rfl⟩, rfl⟩, ⟨⟨_, rfl⟩, ⟨_, rfl⟩, rfl⟩, rfl⟩
/-- PHA and PHP in the stack page, at its last address, over the next opcode. -/
theorem witness_NextFetchSeesStore_push :
    let s := { withP State.reset 0x08 with pc := 0x01FE, sp := 0xFF, a := 0xFF }
    s.inv = true ∧ s.pc + BitVec.ofNat 16 (Instr.pha).length = 0x0100 + s.sp.setWidth 16 ∧
      s.pc + BitVec.ofNat 16 (Instr.php).length = 0x0100 + s.sp.setWidth 16 ∧
      (∃ t, exec .pha s = .next t) ∧ (∃ t, exec .php s = .next t) ∧ (encode .php).head? = some s.flags.pack :=
  ⟨rfl, rfl, rfl, ⟨_, rfl⟩, ⟨_, rfl⟩, rfl⟩

end Sys2Proof.Tests
end

section
/-! PROOFS. Push and Pull as 10_state.md R27 and R28 give them, and their wraps at the two ends of the stack page. -/

namespace Sys2Proof.Machine

theorem State.stackAddr_eq (s : State) : s.stackAddr = 0x0100 + s.sp.setWidth 16 := rfl

/-- A push writes at the old stack address; the write leaves SP alone, so the SP decremented is the old one. -/
theorem State.push_eq (s : State) (v : Byte) :
    s.push v = { s.memWrite (0x0100 + s.sp.setWidth 16) v with sp := s.sp - 1 } := by
  simp only [State.push, State.stackAddr_eq, State.memWrite_sp]

/-- R27's lower end: SP wraps from 0x00 to 0xFF. -/
theorem State.push_at_bottom {s : State} (h : s.sp = 0x00) (v : Byte) :
    s.push v = { s.memWrite 0x0100 v with sp := 0xFF } := by
  rw [State.push_eq, h]
  rfl

/-- R28's upper end: SP wraps from 0xFF to 0x00. -/
theorem State.pull_at_top {s : State} (h : s.sp = 0xFF) :
    s.pull = (s.memRead 0x0100, { s with sp := 0x00 }) := by
  rw [State.pull_eq, h]
  rfl

/-- Settles O33: the two operations' equations, and each of them at its end of the stack page. -/
theorem pushThenPullOperations : Obligations.PushThenPullOperations := by
  intro s v
  refine ⟨s.push_eq v, s.pull_eq, fun hsp => ⟨?_, State.push_at_bottom hsp v⟩, State.pull_at_top⟩
  rw [State.push_at_bottom hsp]

end Sys2Proof.Machine
end

section
/-! PROOFS. Operand resolution from the bytes fetched after the opcode (40_fetch_decode_addressing.md R124-R129). -/

namespace Sys2Proof

/-- `hi : lo` as a number (00_scope.md R10). -/
theorem toNat_wordOf (lo hi : Byte) : (wordOf lo hi).toNat = 256 * hi.toNat + lo.toNat := by
  rw [wordOf, BitVec.toNat_append, ← Nat.shiftLeft_add_eq_or_of_lt lo.isLt, Nat.shiftLeft_eq]
  omega

/-- With two bytes after the opcode, a row of the table makes its instruction from them; a byte that its format lacks is left. -/
theorem opcodeTable_decodeOperands : ∀ row ∈ opcodeTable, ∀ b1 b2 : Byte,
    row.decodeOperands [b1, b2] = .ok (row.make b1 b2, [b1, b2].drop (row.mode.length - 1)) := by
  simp [opcodeTable, loadRows, storeRows, transferRows, stackRows, OpRow.decodeOperands, Mode.length]

/-- What three bytes decode to: the instruction that a row of the table makes from the two operand bytes (R100, R102). -/
theorem decode_three {op b1 b2 : Byte} {i : Instr} {rest : List Byte} (h : decode [op, b1, b2] = .ok (i, rest)) :
    ∃ row ∈ opcodeTable, i = row.make b1 b2 := by
  cases hl : lookup op with
  | none => simp [decode, hl] at h
  | some row =>
    have hrow : row ∈ opcodeTable := (lookup_some hl).1
    simp only [decode, hl, opcodeTable_decodeOperands row hrow] at h
    cases h
    exact ⟨row, hrow, rfl⟩

end Sys2Proof

namespace Sys2Proof.Machine

/-- `Resolve(mode)` as the spec words it (R124-R129): by the mode alone, from the bytes fetched after the opcode. -/
def resolveMode (lo hi : Byte) (s : State) : Mode → Operand
  | .imp => .none
  | .imm => .val lo
  | .zp => .ea (eaZp lo) false
  | .zpx => .ea (eaZpIndexed lo s.x) false
  | .zpy => .ea (eaZpIndexed lo s.y) false
  | .abs => .ea (eaAbs (wordOf lo hi)) false
  | .absx => resolveAbsIndexed (wordOf lo hi) s.x
  | .absy => resolveAbsIndexed (wordOf lo hi) s.y

/-- Every row of the table resolves by its mode alone. -/
theorem opcodeTable_resolve : ∀ row ∈ opcodeTable, ∀ (b1 b2 : Byte) (s : State),
    resolve (row.make b1 b2) s = resolveMode b1 b2 s (row.make b1 b2).mode := by
  simp [opcodeTable, loadRows, storeRows, transferRows, stackRows, resolve, resolveMode, Instr.mode]

/-- A decoded instruction resolves by its mode from the two bytes after its opcode. -/
theorem resolve_of_decode {op b1 b2 : Byte} {i : Instr} {rest : List Byte} (h : decode [op, b1, b2] = .ok (i, rest))
    (s : State) : resolve i s = resolveMode b1 b2 s i.mode := by
  obtain ⟨row, hrow, rfl⟩ := decode_three h
  exact opcodeTable_resolve row hrow b1 b2 s

/-- A zero-page address is the byte itself (R125). -/
theorem toNat_eaZp (zp8 : Byte) : (eaZp zp8).toNat = zp8.toNat :=
  BitVec.toNat_setWidth_of_le (by decide)

/-- An indexed zero-page address is the sum modulo 256 (R126, R127). -/
theorem toNat_eaZpIndexed (zp8 index : Byte) : (eaZpIndexed zp8 index).toNat = (zp8.toNat + index.toNat) % 256 :=
  (toNat_eaZp (zp8 + index)).trans (BitVec.toNat_add zp8 index)

/-- Settles O20: the operand by the mode, then the address of each mode as a number. -/
theorem unindexedAndZpxOperands : Obligations.UnindexedAndZpxOperands := by
  intro s i rest h
  have hres := resolve_of_decode h s
  refine ⟨fun hm => ?_, fun hm => ?_, fun hm => ?_, fun hm => ?_⟩ <;> rw [hm] at hres
  · exact hres
  · exact ⟨_, hres, toNat_eaZp _, (toNat_eaZp _).trans_le (Nat.le_of_lt_succ (BitVec.isLt _))⟩
  · exact ⟨_, hres, toNat_wordOf _ _⟩
  · exact ⟨_, hres, toNat_eaZpIndexed _ _⟩

end Sys2Proof.Machine
end

section
/-! PROOFS. The one flag function and the instructions that call it (40_fetch_decode_addressing.md R131). -/

namespace Sys2Proof.Machine

/-- A transfer to A, X or Y ends as a load of the value moved does (41_load.md R150, 43_transfer.md R200). -/
theorem State.transfer_eq_load (s : State) (src : Reg) {dst : Reg} (h : dst ≠ .sp) :
    s.transfer src dst = s.load dst (s.reg src) := if_neg h

/-- Which of A, X and Y an instruction with this mnemonic writes, if any (10_state.md R21-R23). -/
def dataDest : Mnemonic → Option Reg
  | .lda | .txa | .tya | .pla => some .a
  | .ldx | .tax | .tsx => some .x
  | .ldy | .tay => some .y
  | .sta | .stx | .sty | .txs | .pha | .php | .plp => none

/-- An instruction that writes A, X or Y ends with the load of its destination, before which no flag has changed. -/
theorem exec_eq_load {i : Instr} {s t : State} {r : Reg} (hd : dataDest i.mnemonic = some r) (h : exec i s = .next t) :
    ∃ (s1 : State) (v : Byte), t = s1.load r v ∧ s1.flags = s.flags := by
  -- `hd` leaves the writers of A, X and Y, and `h` gives each one's next state
  cases i <;> cases hd <;> cases h
  case tax | tay | txa | tya | tsx => exact ⟨_, _, State.transfer_eq_load _ _ (by decide), rfl⟩
  all_goals exact ⟨_, _, rfl, rfl⟩

/-- An instruction that writes A, X or Y sets the flags by `SetZN` of the value that the register then holds. -/
theorem exec_flags_eq_setZN {i : Instr} {s t : State} {r : Reg} (hd : dataDest i.mnemonic = some r)
    (h : exec i s = .next t) : t.flags = s.flags.setZN (t.reg r) := by
  obtain ⟨s1, v, rfl, hf⟩ := exec_eq_load hd h
  rw [State.load_flags, State.reg_load, if_pos rfl, hf]

/-- TXS moves into SP and leaves every flag (43_transfer.md R206). -/
theorem exec_flags_of_txs {i : Instr} {s t : State} (hm : i.mnemonic = .txs) (h : exec i s = .next t) :
    t.flags = s.flags := by
  cases i <;> cases hm
  cases h
  exact State.transfer_flags _ _ _

/-- Z is the value's being 0, N its being 128 or more. -/
theorem Flags.setZN_z_n (f : Flags) (v : Byte) :
    (f.setZN v).z = decide (v.toNat = 0) ∧ (f.setZN v).n = decide (128 ≤ v.toNat) := by
  refine ⟨?_, BitVec.msb_eq_decide v⟩
  rw [Flags.setZN_z, beq_eq_decide, decide_eq_decide]
  exact BitVec.toNat_inj.symm

/-- Settles O22: `SetZN` flag by flag, then its callers by the register they write. -/
theorem oneFlagFunction : Obligations.OneFlagFunction := by
  refine ⟨fun f v => ?_, fun i s t h => ⟨fun hm => ?_, fun hm => ?_, fun hm => ?_, fun hm => exec_flags_of_txs hm h⟩⟩
  · obtain ⟨hz, hn⟩ := f.setZN_z_n v
    exact ⟨hz, hn, rfl, rfl, rfl, rfl, rfl, rfl⟩
  · have hd : ∀ m ∈ [Mnemonic.lda, .txa, .tya, .pla], dataDest m = some .a := by decide
    exact exec_flags_eq_setZN (hd _ hm) h
  · have hd : ∀ m ∈ [Mnemonic.ldx, .tax, .tsx], dataDest m = some .x := by decide
    exact exec_flags_eq_setZN (hd _ hm) h
  · have hd : ∀ m ∈ [Mnemonic.ldy, .tay], dataDest m = some .y := by decide
    exact exec_flags_eq_setZN (hd _ hm) h

end Sys2Proof.Machine
end

section
/-! PROOFS. The six transfers (43_transfer.md R200-R206). -/

namespace Sys2Proof.Machine

/-- Once PC has moved, a transfer to A, X or Y ends as a load of the register moved, which still reads as before. -/
theorem State.transfer_advance_eq_load (s : State) (k : Nat) (src dst : Reg) (h : dst ≠ .sp) :
    (s.advance k).transfer src dst = (s.advance k).load dst (s.reg src) := by
  rw [State.transfer_eq_load _ src h, State.reg_advance]

/-- A transfer to SP is the register write alone: R200's exception leaves the flags out (43_transfer.md R206). -/
theorem State.transfer_to_sp (s : State) (src : Reg) : s.transfer src .sp = s.setReg .sp (s.reg src) := rfl

/-- Settles O17: after PC moves by 1, five transfers are the load of the register moved, and TXS is a register write alone. -/
theorem transferResults : Obligations.TransferResults := by
  intro s
  have toData (src dst : Reg) (h : dst ≠ .sp) :
      (.next ((s.advance 1).transfer src dst) : Result) = .next ((s.advance 1).load dst (s.reg src)) :=
    congrArg _ (s.transfer_advance_eq_load 1 src dst h)
  refine ⟨?tax, ?tay, ?txa, ?tya, ?tsx, ?txs⟩
  case tax => exact toData .a .x (by decide)
  case tay => exact toData .a .y (by decide)
  case txa => exact toData .x .a (by decide)
  case tya => exact toData .y .a (by decide)
  case tsx => exact toData .sp .x (by decide)
  case txs => exact congrArg Host.Outcome.next ((s.advance 1).transfer_to_sp .x)

end Sys2Proof.Machine
end

section
/-! PROOFS. The opcode table read from both sides: every instruction comes from a row, and every row decodes what it encodes
(30_encoding.md R100-R103). -/

namespace Sys2Proof

/-- Every instruction is made by the row of its opcode byte, from the operand bytes of its encoding (R102, R106). -/
theorem exists_lookup_opcode (i : Instr) :
    ∃ row, lookup i.opcode = some row ∧ i = row.make ((encode i).getD 1 0) ((encode i).getD 2 0) := by
  cases i <;> refine ⟨_, rfl, ?_⟩ <;> simp [encode]

/-- An encoding begins with the opcode byte. -/
theorem head?_encode (i : Instr) : (encode i).head? = some i.opcode := by
  cases i <;> rfl

/-- The encoding has as many bytes as the mode says (R101, R103). -/
theorem length_encode (i : Instr) : (encode i).length = i.length := by
  cases i <;> rfl

/-- A row reads the operand bytes that its format has, and leaves the bytes after them. -/
theorem opcodeTable_decodeOperands_take : ∀ row ∈ opcodeTable, ∀ (b1 b2 : Byte) (rest : List Byte),
    row.decodeOperands ([b1, b2].take (row.mode.length - 1) ++ rest) = .ok (row.make b1 b2, rest) := by
  simp [opcodeTable, loadRows, storeRows, transferRows, stackRows, OpRow.decodeOperands, Mode.length]

/-- A format has an opcode byte (R101). -/
theorem Mode.length_pos (m : Mode) : 1 ≤ m.length := by cases m <;> decide

/-- The longest formats have three bytes (R101). -/
theorem Mode.length_le (m : Mode) : m.length ≤ 3 := by cases m <;> decide

/-- The encoding of a row's instruction, its opcode byte set apart. -/
theorem encode_make {row : OpRow} (h : row ∈ opcodeTable) (b1 b2 : Byte) :
    encode (row.make b1 b2) = row.opcode :: [b1, b2].take (row.mode.length - 1) := by
  obtain ⟨n, hn⟩ := Nat.exists_eq_add_of_le' row.mode.length_pos
  rw [(opcodeTable_consistent row h b1 b2).2.2, hn, List.take_succ_cons, Nat.add_sub_cancel]

/-- Settles O1: the row of the opcode byte reads back the operand bytes that the instruction was made from. -/
theorem decodeInvertsEncode : Obligations.DecodeInvertsEncode := by
  intro i rest _
  obtain ⟨row, hrow, hi⟩ := exists_lookup_opcode i
  obtain ⟨hmem, hop⟩ := lookup_some hrow
  rw [← hop] at hrow
  rw [hi, encode_make hmem, List.cons_append]
  simp only [decode, hrow, opcodeTable_decodeOperands_take row hmem]

/-- What a row reads: the operand bytes of its format, with nothing dropped. -/
theorem OpRow.eq_of_decodeOperands {row : OpRow} {bytes : List Byte} {i : Instr} {rest : List Byte}
    (h : row.decodeOperands bytes = .ok (i, rest)) :
    ∃ b1 b2, i = row.make b1 b2 ∧ bytes = [b1, b2].take (row.mode.length - 1) ++ rest := by
  unfold OpRow.decodeOperands at h
  split at h <;> cases h
  case h_1 hlen => exact ⟨0, 0, rfl, by simp [hlen]⟩
  case h_2 b1 hlen => exact ⟨b1, 0, rfl, by simp [hlen]⟩
  case h_3 b1 b2 hlen => exact ⟨b1, b2, rfl, by simp [hlen]⟩

/-- A row's refusal is never an unknown opcode (30_encoding.md R108). -/
theorem OpRow.decodeOperands_ne_unknownOpcode (row : OpRow) (bytes : List Byte) (op : Byte) :
    row.decodeOperands bytes ≠ .error (.unknownOpcode op) := by
  unfold OpRow.decodeOperands
  split <;> simp

/-- Bytes that decode come from a row of the table: its opcode byte, the operand bytes of its format, and the rest. -/
theorem decode_ok {bytes : List Byte} {i : Instr} {rest : List Byte} (h : decode bytes = .ok (i, rest)) :
    ∃ row ∈ opcodeTable, ∃ b1 b2, lookup row.opcode = some row ∧ i = row.make b1 b2 ∧
      bytes = row.opcode :: [b1, b2].take (row.mode.length - 1) ++ rest := by
  cases bytes with
  | nil => cases h
  | cons op tail =>
    cases hl : lookup op with
    | none => simp [decode, hl] at h
    | some row =>
      simp only [decode, hl] at h
      obtain ⟨hmem, rfl⟩ := lookup_some hl
      obtain ⟨b1, b2, hi, htail⟩ := OpRow.eq_of_decodeOperands h
      exact ⟨row, hmem, b1, b2, hl, hi, by rw [htail, List.cons_append]⟩

/-- Settles O2: the bytes are those of the row, and the row's instruction encodes to them. -/
theorem encodeInvertsDecode : Obligations.EncodeInvertsDecode := by
  intro bytes i rest h
  obtain ⟨row, hmem, b1, b2, _, rfl, rfl⟩ := decode_ok h
  rw [encode_make hmem]

/-- `lookup` has no row for exactly the bytes that no encoding begins with (30_encoding.md R107). -/
theorem lookup_eq_none_iff (op : Byte) : lookup op = none ↔ ∀ i : Instr, (encode i).head? ≠ some op := by
  constructor
  · intro h i hi
    obtain ⟨row, hrow, _⟩ := exists_lookup_opcode i
    rw [head?_encode, Option.some.injEq] at hi
    rw [hi, h] at hrow
    cases hrow
  · intro h
    refine lookup_none.mpr fun row hmem hop => h (row.make 0 0) ?_
    rw [encode_make hmem, hop, List.head?_cons]

/-- Settles O3: only a byte without a row is refused as an unknown opcode. -/
theorem unknownOpcodesAreTheUnassigned : Obligations.UnknownOpcodesAreTheUnassigned := by
  intro op rest
  rw [← lookup_eq_none_iff]
  cases hl : lookup op with
  | none => simp [decode, hl]
  | some row => simp [decode, hl, row.decodeOperands_ne_unknownOpcode]

/-- Settles O4: the two instructions come from the same row, and each encoding has the length that its mode says. -/
theorem opcodeAloneSelectsForm : Obligations.OpcodeAloneSelectsForm := by
  intro op r1 r2 i j t1 t2 hi hj
  have lengths {r t : List Byte} {k : Instr} (h : decode (op :: r) = .ok (k, t)) : r.length + 1 = k.length + t.length := by
    rw [← length_encode, ← List.length_append, encodeInvertsDecode _ _ _ h, List.length_cons]
  obtain ⟨row, hmem, b1, b2, hrow, rfl, hbytes⟩ := decode_ok hi
  obtain ⟨row', hmem', c1, c2, hrow', rfl, hbytes'⟩ := decode_ok hj
  have hop : row.opcode = row'.opcode := (List.cons.inj hbytes).1.symm.trans (List.cons.inj hbytes').1
  rw [← hop, hrow] at hrow'
  obtain rfl : row = row' := Option.some.inj hrow'
  obtain ⟨hm, hmode, _⟩ := opcodeTable_consistent row hmem b1 b2
  obtain ⟨hm', hmode', _⟩ := opcodeTable_consistent row hmem c1 c2
  refine ⟨hm.trans hm'.symm, hmode.trans hmode'.symm, ?_, lengths hi, lengths hj⟩
  rw [Instr.length, Instr.length, hmode, hmode']

/-- Settles O5: the decoder run on each word. -/
theorem wordsOfTheOpcodeMapDecode : Obligations.WordsOfTheOpcodeMapDecode :=
  ⟨rfl, rfl, rfl, rfl, rfl, rfl, rfl, rfl, rfl, rfl⟩

end Sys2Proof
end

section
/-! PROOFS. The assembler reads back what R109 writes, and refuses the pairs that the opcode table lacks (30_encoding.md
section 4). -/

namespace Sys2Proof.Machine

/-- The operand part of a line reads back, for as many operand bytes as the format has (R109). -/
theorem readOperand_operandText {mode : Mode} {operand : List Byte} (h : operand.length + 1 = mode.length) :
    readOperand (operandText mode operand) = some (mode, operand) := by
  cases mode <;> simp only [Mode.length, Nat.reduceEqDiff, List.length_eq_zero_iff, List.length_eq_one_iff,
    List.length_eq_two] at h
  case imp => subst h; rfl
  case imm | zp | zpx | zpy =>
    obtain ⟨b, rfl⟩ := h
    simp [operandText, hexByte, readOperand]
  case abs | absx | absy =>
    obtain ⟨lo, hi, rfl⟩ := h
    simp [operandText, hexByte, readOperand, hexDigit_ne_comma]

/-- A line that begins with a mnemonic is read as the mnemonic, the operand and the pair's opcode byte (R109). -/
theorem assemble_mnemonicText (m : Mnemonic) (rest : List Char) :
    assemble (mnemonicText m ++ rest) =
      (readOperand rest).bind fun (mode, bytes) => (opcodeOf m mode).map fun op => op :: bytes := by
  obtain ⟨a, b, c, htext, hread, hdot⟩ := readMnemonic_mnemonicText m
  rw [htext]
  simp [assemble, hread, hdot]

/-- A whole line as R109 writes it: refused exactly when the pair has no opcode byte. -/
theorem assemble_line (m : Mnemonic) {mode : Mode} {operand : List Byte} (h : operand.length + 1 = mode.length) :
    assemble (mnemonicText m ++ operandText mode operand) = (opcodeOf m mode).map fun op => op :: operand := by
  rw [assemble_mnemonicText, readOperand_operandText h, Option.bind_some]

/-- The pair of an instruction has the instruction's opcode byte (R106). -/
theorem opcodeOf_mnemonic_mode (i : Instr) : opcodeOf i.mnemonic i.mode = some i.opcode := by
  cases i <;> rfl

/-- A pair has an opcode byte exactly when it is admitted (R106). -/
theorem isSome_opcodeOf (m : Mnemonic) (mode : Mode) : (opcodeOf m mode).isSome = admitted m mode := by
  cases m <;> cases mode <;> rfl

/-- Settles O6: the line of an instruction is its mnemonic and its operand bytes. -/
theorem assemblerReadsTheSyntax : Obligations.AssemblerReadsTheSyntax := by
  intro i
  have hcons : encode i = i.opcode :: (encode i).tail := (List.eq_cons_of_mem_head? (head?_encode i))
  have hlen : (encode i).tail.length + 1 = i.mode.length := by
    rw [← List.length_cons (a := i.opcode), ← hcons, length_encode, Instr.length]
  rw [asmText, assemble_line _ hlen, opcodeOf_mnemonic_mode, Option.map_some, ← hcons]

/-- Settles O7: a pair outside the table has no opcode byte. -/
theorem assemblerRefusesOtherPairs : Obligations.AssemblerRefusesOtherPairs := by
  intro m mode operand hlen hadm
  have hnone : opcodeOf m mode = none := by
    rw [← Option.not_isSome_iff_eq_none, isSome_opcodeOf, hadm]
    exact Bool.false_ne_true
  rw [assemble_line m hlen, hnone, Option.map_none]

end Sys2Proof.Machine
end

section
/-! PROOFS. What an instruction does, by its mnemonic: its length moves PC, its operand is resolved, and one of sixteen effects
follows. -/

namespace Sys2Proof.Machine

/-- The byte that an operand stands for: the immediate, or the byte at the effective address (41_load.md R150). -/
def Operand.value (s : State) : Operand → Byte
  | .none => 0
  | .val v => v
  | .ea a _ => s.memRead a

/-- The effective address of an operand that has one (42_store.md R180). -/
def Operand.addr : Operand → Addr
  | .ea a _ => a
  | .none | .val _ => 0

/-- The next state by mnemonic, for an instruction of `k` bytes with the operand `o` (41_load.md, 42_store.md, 43_transfer.md,
44_stack.md). Every CPU write is written as the raw write that it is, since no cartridge claims it. -/
def effect (m : Mnemonic) (k : Nat) (o : Operand) (s : State) : State :=
  match m with
  | .lda => (s.advance k).load .a (o.value s)
  | .ldx => (s.advance k).load .x (o.value s)
  | .ldy => (s.advance k).load .y (o.value s)
  | .sta => (s.advance k).rawWrite o.addr s.a
  | .stx => (s.advance k).rawWrite o.addr s.x
  | .sty => (s.advance k).rawWrite o.addr s.y
  | .tax => (s.advance k).load .x s.a
  | .tay => (s.advance k).load .y s.a
  | .txa => (s.advance k).load .a s.x
  | .tya => (s.advance k).load .a s.y
  | .tsx => (s.advance k).load .x s.sp
  | .txs => (s.advance k).setReg .sp s.x
  | .pha => { (s.advance k).rawWrite s.stackAddr s.a with sp := s.sp - 1 }
  | .php => { (s.advance k).rawWrite s.stackAddr s.flags.pack with sp := s.sp - 1 }
  | .pla => ({ s.advance k with sp := s.sp + 1 }).load .a (s.memRead (0x0100 + zext16 (s.sp + 1)))
  | .plp => { s.advance k with
      sp := s.sp + 1, flags := Flags.unpack (s.memRead (0x0100 + zext16 (s.sp + 1))) }

/-- A push is a raw write at the stack address, and SP goes down by one (10_state.md R27). -/
theorem State.push_eq_rawWrite (s : State) (v : Byte) :
    s.push v = { s.rawWrite s.stackAddr v with sp := s.sp - 1 } := by
  rw [State.push, State.memWrite_eq]
  rfl

/-- Every instruction completes in every state, with its mnemonic's effect. -/
theorem exec_eq_effect (i : Instr) (s : State) :
    exec i s = .next (effect i.mnemonic i.length (resolve i s) s) := by
  cases i
  case staZp | staZpx | staAbs | staAbsx | staAbsy | stxZp | stxZpy | stxAbs | styZp | styZpx | styAbs =>
    exact congrArg Host.Outcome.next (State.store_eq _ _ _)
  case pha | php => exact congrArg Host.Outcome.next (State.push_eq_rawWrite _ _)
  all_goals rfl

/-- The next state of an instruction is its mnemonic's effect. -/
theorem exec_next_iff {i : Instr} {s t : State} :
    exec i s = .next t ↔ t = effect i.mnemonic i.length (resolve i s) s := by
  rw [exec_eq_effect, Host.Outcome.next.injEq, eq_comm]

/-- Settles O13: each mode loads A with its operand's value. -/
theorem ldaResults : Obligations.LdaResults := by
  intro s
  refine ⟨?imm, ?zp, ?zpx, ?abs, ?absx, ?absy⟩ <;> exact fun _ => exec_eq_effect _ s

/-- Settles O14: each mode loads X with its operand's value. -/
theorem ldxResults : Obligations.LdxResults := by
  intro s
  refine ⟨?imm, ?zp, ?zpy, ?abs, ?absy⟩ <;> exact fun _ => exec_eq_effect _ s

/-- Settles O15: each mode loads Y with its operand's value. -/
theorem ldyResults : Obligations.LdyResults := by
  intro s
  refine ⟨?imm, ?zp, ?zpx, ?abs, ?absx⟩ <;> exact fun _ => exec_eq_effect _ s

/-- A store of `v` by an instruction of `k` bytes, as one update of the state (42_store.md R180). -/
theorem State.rawWrite_advance {s : State} {k a : Nat} {ea : Addr} (v : Byte) (h : ea.toNat = a) :
    (s.advance k).rawWrite ea v =
      { s with pc := s.pc + BitVec.ofNat 16 k, space := Memory.write s.space a v } := by
  subst h; rfl

/-- Settles O16: each mode stores its register at the operand's address, which in page 0x00 is the 8-bit sum itself. -/
theorem storeResults : Obligations.StoreResults := by
  intro s
  have stores {i : Instr} {v : Byte} {a : Nat}
      (he : effect i.mnemonic i.length (resolve i s) s = (s.advance i.length).rawWrite (resolve i s).addr v)
      (ha : (resolve i s).addr.toNat = a) : exec i s = .next
        { s with pc := s.pc + BitVec.ofNat 16 i.length, space := Memory.write s.space a v } := by
    rw [exec_eq_effect, he, State.rawWrite_advance v ha]
  refine ⟨?staZp, ?staZpx, ?staAbs, ?staAbsx, ?staAbsy, ?stxZp, ?stxZpy, ?stxAbs, ?styZp, ?styZpx, ?styAbs⟩
  case staZp | staZpx | stxZp | stxZpy | styZp | styZpx => exact fun _ => stores rfl (toNat_eaZp _)
  case staAbs | staAbsx | staAbsy | stxAbs | styAbs => exact fun _ => stores rfl rfl

/-- The stack address as a number (10_state.md R26). -/
theorem State.toNat_stackAddr (s : State) : s.stackAddr.toNat = 256 + s.sp.toNat := by
  simp only [State.stackAddr, Config.stackBase, zext16]
  bv_omega

/-- A push of `v` by an instruction of one byte, as one update of the state (44_stack.md R211, R212). -/
theorem State.push_advance (s : State) (v : Byte) :
    { (s.advance 1).rawWrite s.stackAddr v with sp := s.sp - 1 } =
      { s with pc := s.pc + 1, sp := s.sp - 1, space := Memory.write s.space (256 + s.sp.toNat) v } := by
  rw [← s.toNat_stackAddr]
  rfl

/-- Settles O18: both push one byte, and PHP's is the packed flags. -/
theorem pushResults : Obligations.PushResults := by
  intro s
  refine ⟨?pha, s.flags.pack, ?php, s.flags.pack_bits⟩
  case pha => exact (exec_eq_effect .pha s).trans (congrArg _ (s.push_advance s.a))
  case php => exact (exec_eq_effect .php s).trans (congrArg _ (s.push_advance s.flags.pack))

/-- Settles O19: both pull one byte, which PLA loads into A and PLP unpacks. -/
theorem pullResults : Obligations.PullResults :=
  fun s => ⟨exec_eq_effect .pla s, exec_eq_effect .plp s⟩

end Sys2Proof.Machine
end

section
/-! PROOFS. What every effect leaves unchanged: PC moves by the length, the cartridge stays, and only stores and pushes reach the
AddressSpace. -/

namespace Sys2Proof.Machine

/-- PC moves by the instruction's length and no other way (10_state.md R25). -/
theorem effect_pc (m : Mnemonic) (k : Nat) (o : Operand) (s : State) :
    (effect m k o s).pc = s.pc + BitVec.ofNat 16 k := by
  cases m <;> rfl

/-- No instruction changes the cartridge (20_memory.md R59, R64). -/
theorem effect_cart (m : Mnemonic) (k : Nat) (o : Operand) (s : State) : (effect m k o s).cart = s.cart := by
  cases m <;> rfl

/-- The register that a store stores (42_store.md R180). -/
def storeSrc : Mnemonic → Option Reg
  | .sta => some .a
  | .stx => some .x
  | .sty => some .y
  | _ => none

/-- The byte that a push pushes (44_stack.md R211, R212). -/
def pushedByte (s : State) : Mnemonic → Option Byte
  | .pha => some s.a
  | .php => some s.flags.pack
  | _ => none

theorem effect_of_store {m : Mnemonic} {r : Reg} (h : storeSrc m = some r) (k : Nat) (o : Operand) (s : State) :
    effect m k o s = (s.advance k).rawWrite o.addr (s.reg r) := by
  cases m <;> cases h <;> rfl

theorem effect_of_push {m : Mnemonic} {s : State} {v : Byte} (h : pushedByte s m = some v) (k : Nat) (o : Operand) :
    effect m k o s = { (s.advance k).rawWrite s.stackAddr v with sp := s.sp - 1 } := by
  cases m <;> cases h <;> rfl

/-- Only stores and pushes write memory. -/
theorem effect_space_of_no_write {m : Mnemonic} (h : m ∉ [.sta, .stx, .sty, .pha, .php]) (k : Nat) (o : Operand)
    (s : State) : (effect m k o s).space = s.space := by
  cases m
  case sta | stx | sty | pha | php => exact absurd (by decide) h
  all_goals rfl

/-- The AddressSpace after an instruction is the one before it, or differs by one write. -/
theorem effect_space (m : Mnemonic) (k : Nat) (o : Operand) (s : State) :
    (effect m k o s).space = s.space ∨
      ∃ (a : Addr) (v : Byte), (effect m k o s).space = Memory.write s.space a.toNat v := by
  by_cases h : m ∈ [.sta, .stx, .sty, .pha, .php]
  · refine Or.inr ?_
    cases m
    case sta | stx | sty | pha | php => exact ⟨_, _, rfl⟩
    all_goals exact absurd h (by decide)
  · exact Or.inl (effect_space_of_no_write h k o s)

/-- Settles O12: PC moves by the length, which the mode bounds. -/
theorem pcAdvancesByLength : Obligations.PcAdvancesByLength := by
  intro i s t h
  rw [exec_next_iff] at h
  have hpc : t.pc = s.pc + BitVec.ofNat 16 i.length := by rw [h, effect_pc]
  have hlen : i.length ≤ 3 := i.mode.length_le
  refine ⟨hpc, ?_, i.mode.length_pos, hlen⟩
  rw [hpc, BitVec.toNat_add, BitVec.toNat_ofNat, Nat.mod_eq_of_lt (by omega : i.length < 2 ^ 16)]

/-- Settles O28: without a write, space and cartridge are the same, and every read looks at these two alone. -/
theorem otherInstructionsStoreNothing : Obligations.OtherInstructionsStoreNothing := by
  intro i s t hm h
  rw [exec_next_iff] at h
  have hspace : t.space = s.space := by rw [h, effect_space_of_no_write hm]
  have hcart : t.cart = s.cart := by rw [h, effect_cart]
  exact ⟨hspace, hcart, fun b => ⟨State.memRead_congr hspace hcart b, by rw [State.rawRead, State.rawRead, hspace]⟩⟩

/-- Settles O31: a step that goes on is an instruction's effect. -/
theorem stepNeverChangesCartridge : Obligations.StepNeverChangesCartridge := by
  intro s t h
  obtain ⟨i, _, hexec⟩ := step_next h
  rw [exec_next_iff.mp hexec, effect_cart]

end Sys2Proof.Machine
end

section
/-! PROOFS. The flags: what writes them, what reads them, and the status byte (10_state.md section 5). -/

namespace Sys2Proof.Machine

/-- Settles O23: both directions bit by bit. -/
theorem statusByteRoundTrip : Obligations.StatusByteRoundTrip := by
  refine ⟨fun b => BitVec.eq_of_getLsbD_eq fun k hk => ?_, fun f => ?_, fun f => ?_⟩
  · obtain ⟨h7, h6, h5, h4, h3, h2, h1, h0⟩ := (Flags.unpack b).pack_bits
    interval_cases k <;> assumption
  · simp only [Flags.unpack, f.pack_bits]
  · obtain ⟨h7, _, _, _, _, _, _, h0⟩ := f.pack_bits
    exact ⟨h0, h7⟩

/-- Stores, pushes and TXS write no flag. -/
theorem effect_flags_of_no_write {m : Mnemonic} (h : m ∈ [.sta, .stx, .sty, .txs, .pha, .php]) (k : Nat) (o : Operand)
    (s : State) : (effect m k o s).flags = s.flags := by
  cases m
  case sta | stx | sty | txs | pha | php => rfl
  all_goals exact absurd h (by decide)

/-- Every instruction but PLP leaves the flags or calls `SetZN` (10_state.md section 5). -/
theorem effect_flags {m : Mnemonic} (h : m ≠ .plp) (k : Nat) (o : Operand) (s : State) :
    (effect m k o s).flags = s.flags ∨ ∃ v, (effect m k o s).flags = s.flags.setZN v := by
  cases m
  case plp => exact absurd rfl h
  case sta | stx | sty | txs | pha | php => exact Or.inl (effect_flags_of_no_write (by decide) k o s)
  all_goals exact Or.inr ⟨_, rfl⟩

/-- Settles O24: the flags stay, or `SetZN` writes Z and N. -/
theorem flagWriters : Obligations.FlagWriters := by
  intro i s t h
  rw [exec_next_iff] at h
  subst h
  refine ⟨fun hm => ?_, fun hm => effect_flags_of_no_write hm _ _ _⟩
  obtain hf | ⟨v, hf⟩ := effect_flags hm i.length (resolve i s) s <;> rw [hf]
  · exact ⟨rfl, rfl, rfl, rfl, rfl, rfl⟩
  · exact ⟨rfl, rfl, rfl, rfl, rfl, rfl⟩

/-- No addressing mode reads a flag. -/
theorem resolve_with_flags (i : Instr) (s : State) (f : Flags) : resolve i { s with flags := f } = resolve i s := by
  cases i <;> rfl

/-- With other flags before it, every effect but PHP's ends the same but for the flags. -/
theorem effect_with_flags {m : Mnemonic} (h : m ≠ .php) (k : Nat) (o : Operand) (s : State) (f : Flags) :
    { effect m k o { s with flags := f } with flags := (effect m k o s).flags } = effect m k o s := by
  cases m
  case php => exact absurd rfl h
  all_goals rfl

/-- PLP's result does not depend on the flags before it. -/
theorem effect_plp_with_flags (k : Nat) (o : Operand) (s : State) (f : Flags) :
    effect .plp k o { s with flags := f } = effect .plp k o s := rfl

/-- `SetZN` writes the same Z and N whatever the flags were. -/
theorem effect_zn_with_flags {m : Mnemonic} (h : m ∈ [.lda, .ldx, .ldy, .pla, .tax, .tay, .txa, .tya, .tsx]) (k : Nat)
    (o : Operand) (s : State) (f : Flags) :
    (effect m k o { s with flags := f }).flags.z = (effect m k o s).flags.z ∧
      (effect m k o { s with flags := f }).flags.n = (effect m k o s).flags.n := by
  cases m
  case sta | stx | sty | txs | pha | php | plp => exact absurd h (by decide)
  all_goals exact ⟨rfl, rfl⟩

/-- Settles O25: the same operand, and then the same effect but for the flags. -/
theorem onlyPhpReadsFlags : Obligations.OnlyPhpReadsFlags := by
  intro i s t f hm h
  rw [exec_next_iff] at h
  subst h
  refine ⟨effect i.mnemonic i.length (resolve i s) { s with flags := f }, ?_, effect_with_flags hm _ _ s f,
    fun hplp => ?_, fun hzn => effect_zn_with_flags hzn _ _ s f⟩
  · rw [exec_eq_effect, resolve_with_flags]
  · rw [hplp, effect_plp_with_flags]

end Sys2Proof.Machine
end

section
/-! PROOFS. The registers: what writes them and what reads them (10_state.md sections 2, 4 and 10). -/

namespace Sys2Proof.Machine

/-- Settles O26: an effect that does not name a register keeps it. -/
theorem registerWriters : Obligations.RegisterWriters := by
  intro i s t h
  rw [exec_next_iff] at h
  subst h
  generalize i.mnemonic = m, i.length = k, resolve i s = o
  refine ⟨fun hm => ?a, fun hm => ?x, fun hm => ?y, fun hm => ?sp⟩ <;> cases m
  case a.lda | a.txa | a.tya | a.pla => exact absurd (by decide) hm
  case x.ldx | x.tax | x.tsx => exact absurd (by decide) hm
  case y.ldy | y.tay => exact absurd (by decide) hm
  case sp.txs | sp.pha | sp.php | sp.pla | sp.plp => exact absurd (by decide) hm
  all_goals rfl

/-- No addressing mode reads A. -/
theorem resolve_with_a (i : Instr) (s : State) (v : Byte) : resolve i { s with a := v } = resolve i s := by
  cases i <;> rfl

/-- Only ZPX and ABSX read X. -/
theorem resolve_with_x {i : Instr} (hzpx : i.mode ≠ .zpx) (habsx : i.mode ≠ .absx) (s : State) (v : Byte) :
    resolve i { s with x := v } = resolve i s := by
  cases i
  case ldaZpx | ldyZpx | staZpx | styZpx => exact absurd rfl hzpx
  case ldaAbsx | ldyAbsx | staAbsx => exact absurd rfl habsx
  all_goals rfl

/-- Only ZPY and ABSY read Y. -/
theorem resolve_with_y {i : Instr} (hzpy : i.mode ≠ .zpy) (habsy : i.mode ≠ .absy) (s : State) (v : Byte) :
    resolve i { s with y := v } = resolve i s := by
  cases i
  case ldxZpy | stxZpy => exact absurd rfl hzpy
  case ldaAbsy | ldxAbsy | staAbsy => exact absurd rfl habsy
  all_goals rfl

/-- No addressing mode reads SP. -/
theorem resolve_with_sp (i : Instr) (s : State) (v : Byte) : resolve i { s with sp := v } = resolve i s := by
  cases i <;> rfl

theorem effect_with_a {m : Mnemonic} (h : m ∉ [.sta, .tax, .tay, .pha]) (k : Nat) (o : Operand) (s : State) (v : Byte) :
    effect m k o { s with a := v } =
      if m ∈ [.lda, .txa, .tya, .pla] then effect m k o s else { effect m k o s with a := v } := by
  cases m
  case sta | tax | tay | pha => exact absurd (by decide) h
  all_goals rfl

theorem effect_with_x {m : Mnemonic} (h : m ∉ [.stx, .txa, .txs]) (k : Nat) (o : Operand) (s : State) (v : Byte) :
    effect m k o { s with x := v } =
      if m ∈ [.ldx, .tax, .tsx] then effect m k o s else { effect m k o s with x := v } := by
  cases m
  case stx | txa | txs => exact absurd (by decide) h
  all_goals rfl

theorem effect_with_y {m : Mnemonic} (h : m ∉ [.sty, .tya]) (k : Nat) (o : Operand) (s : State) (v : Byte) :
    effect m k o { s with y := v } =
      if m ∈ [.ldy, .tay] then effect m k o s else { effect m k o s with y := v } := by
  cases m
  case sty | tya => exact absurd (by decide) h
  all_goals rfl

theorem effect_with_sp {m : Mnemonic} (h : m ∉ [.tsx, .pha, .php, .pla, .plp]) (k : Nat) (o : Operand) (s : State)
    (v : Byte) :
    effect m k o { s with sp := v } = if m = .txs then effect m k o s else { effect m k o s with sp := v } := by
  cases m
  case tsx | pha | php | pla | plp => exact absurd (by decide) h
  all_goals rfl

/-- Settles O27: register by register, neither the operand nor the effect reads it. -/
theorem registerReaders : Obligations.RegisterReaders := by
  intro i s t v h
  rw [exec_next_iff] at h
  subst h
  refine ⟨fun hm => ?a, fun hm hzpx habsx => ?x, fun hm hzpy habsy => ?y, fun hm => ?sp⟩ <;> rw [exec_eq_effect]
  case a => rw [resolve_with_a, effect_with_a hm]
  case x => rw [resolve_with_x hzpx habsx, effect_with_x hm]
  case y => rw [resolve_with_y hzpy habsy, effect_with_y hm]
  case sp => rw [resolve_with_sp, effect_with_sp hm]

end Sys2Proof.Machine
end

section
/-! PROOFS. The invariant: what it says of the AddressSpace and of the cartridge, and that every instruction keeps it
(10_state.md section 7; 20_memory.md section 6). -/

namespace Sys2Proof.Machine

/-- The two halves of the invariant. -/
theorem State.inv_iff (s : State) :
    s.inv = true ↔ Memory.wf s.space = true ∧ ∀ c, s.cart = some c → c.wf = true := by
  unfold State.inv
  cases s.cart with
  | none => simp
  | some c => simp

theorem State.wf_space {s : State} (h : s.inv = true) : Memory.wf s.space = true := (s.inv_iff.mp h).1

theorem State.wf_cart {s : State} (h : s.inv = true) {c : CartState} (hc : s.cart = some c) : c.wf = true :=
  (s.inv_iff.mp h).2 c hc

/-- With the AddressSpace and the cartridge kept, the invariant is kept. -/
theorem State.inv_congr {s t : State} (hs : t.space = s.space) (hc : t.cart = s.cart) (h : s.inv = true) :
    t.inv = true := by
  rwa [State.inv, hs, hc]

/-- A raw write keeps the invariant. -/
theorem State.inv_rawWrite {s : State} (h : s.inv = true) (addr : Addr) (v : Byte) : (s.rawWrite addr v).inv = true :=
  (State.inv_iff _).mpr ⟨Memory.wf_write (State.wf_space h) addr v, fun _ hc => State.wf_cart h hc⟩

/-- Every effect is one raw write or none to the AddressSpace, beside the cartridge it keeps. -/
theorem effect_inv (m : Mnemonic) (k : Nat) (o : Operand) {s : State} (h : s.inv = true) :
    (effect m k o s).inv = true := by
  have hcart := effect_cart m k o s
  obtain hspace | ⟨a, v, hspace⟩ := effect_space m k o s
  · exact State.inv_congr hspace hcart h
  · exact State.inv_congr (s := s.rawWrite a v) hspace hcart (State.inv_rawWrite h a v)

/-- Every instruction keeps the invariant. -/
theorem exec_inv {i : Instr} {s t : State} (hexec : exec i s = .next t) (h : s.inv = true) : t.inv = true := by
  rw [exec_next_iff.mp hexec]
  exact effect_inv _ _ _ h

/-- Settles O37: a step that goes on is an instruction's effect. -/
theorem stepKeepsInvariant : Obligations.StepKeepsInvariant := by
  intro s t h hstep
  obtain ⟨i, _, hexec⟩ := step_next hstep
  exact exec_inv hexec h

/-- Settles O36: nothing is in the AddressSpace and no cartridge is attached. -/
theorem resetHasInvariant : Obligations.ResetHasInvariant := (State.inv_iff _).mpr ⟨Memory.wf_reset, nofun⟩

end Sys2Proof.Machine
end

section
/-! PROOFS. The one byte that a store or a push writes, read raw and by the CPU (42_store.md section 5; 44_stack.md). -/

namespace Sys2Proof.Machine

theorem State.cartRead_rawWrite (s : State) (addr : Addr) (v : Byte) (b : Addr) :
    (s.rawWrite addr v).cartRead b = s.cartRead b := State.cartRead_congr rfl b

/-- A raw write is seen by no CPU read of another address. -/
theorem State.memRead_rawWrite_other (s : State) {addr b : Addr} (v : Byte) (hne : b ≠ addr) :
    (s.rawWrite addr v).memRead b = s.memRead b := by
  rw [← State.memWrite_eq, State.memRead_memWrite_other s v hne]

/-- A raw write is seen by the CPU exactly where the cartridge declines (20_memory.md R50). -/
theorem State.memRead_rawWrite_same {s : State} (h : s.inv = true) (addr : Addr) (v : Byte) :
    (s.rawWrite addr v).memRead addr = (s.cartRead addr).getD v := by
  cases hc : s.cartRead addr with
  | none => rw [← State.memWrite_eq, State.memRead_memWrite_same (State.wf_space h) v hc, Option.getD_none]
  | some b => rw [State.memRead_claimed ((s.cartRead_rawWrite addr v addr).trans hc), Option.getD_some]

/-- The CPU reads a pushed byte back, whatever the cartridge: the stack page lies below the program window. -/
theorem State.memRead_rawWrite_stackAddr {s : State} (h : s.inv = true) (v : Byte) :
    (s.rawWrite s.stackAddr v).memRead s.stackAddr = v := by
  rw [State.memRead_rawWrite_same h, State.cartRead_below s s.stackAddr_below, Option.getD_none]

/-- The next state of a store: a raw write of the source register at the effective address. -/
theorem exec_store {i : Instr} {s t : State} {r : Reg} {a : Addr} {crossed : Bool} (hr : storeSrc i.mnemonic = some r)
    (ha : resolve i s = .ea a crossed) (h : exec i s = .next t) : t = (s.advance i.length).rawWrite a (s.reg r) := by
  rw [exec_next_iff.mp h, effect_of_store hr, ha, Operand.addr]

/-- The next state of a push: a raw write at the stack address, and SP down by one. -/
theorem exec_push {i : Instr} {s t : State} {v : Byte} (hv : pushedByte s i.mnemonic = some v)
    (h : exec i s = .next t) : t = { (s.advance i.length).rawWrite s.stackAddr v with sp := s.sp - 1 } := by
  rw [exec_next_iff.mp h, effect_of_push hv]

/-- Settles O29: the store is one raw write, and a claimed read does not look at the AddressSpace. -/
theorem storesChangeOneByte : Obligations.StoresChangeOneByte := by
  intro i s t a crossed hm ha h
  have hsrc : ∀ m ∈ [Mnemonic.sta, .stx, .sty], ∃ r, storeSrc m = some r := by simp [storeSrc]
  obtain ⟨r, hr⟩ := hsrc _ hm
  obtain rfl := exec_store hr ha h
  have holds (q : Reg) (hq : storeSrc i.mnemonic = some q) (hinv : s.inv = true) :
      ((s.advance i.length).rawWrite a (s.reg r)).rawRead a = s.reg q := by
    obtain rfl : r = q := Option.some.inj (hr.symm.trans hq)
    exact State.rawRead_rawWrite_same (s := s.advance i.length) (State.wf_space hinv) a _
  refine ⟨⟨rfl, rfl, rfl, rfl, rfl, rfl⟩, fun b hb => ⟨?other, ?otherRaw⟩, fun hinv => ⟨?sta, ?stx, ?sty, ?declined⟩,
    fun v hv => ⟨State.memRead_claimed hv, State.memRead_claimed hv⟩⟩
  case other => rw [State.memRead_rawWrite_other _ _ hb, State.memRead_advance]
  case otherRaw => exact State.rawRead_rawWrite_other _ _ hb
  case sta => exact fun hsta => holds .a (by rw [hsta]; rfl) hinv
  case stx => exact fun hstx => holds .x (by rw [hstx]; rfl) hinv
  case sty => exact fun hsty => holds .y (by rw [hsty]; rfl) hinv
  case declined => exact fun hc => State.memRead_declined hc

/-- The CPU reads a pushed byte back at the old stack address. -/
theorem exec_push_memRead {i : Instr} {s t : State} {v : Byte} (hinv : s.inv = true)
    (hv : pushedByte s i.mnemonic = some v) (h : exec i s = .next t) :
    t.memRead (0x0100 + s.sp.setWidth 16) = v := by
  rw [exec_push hv h]
  exact (State.memRead_congr rfl rfl _).trans (State.memRead_rawWrite_stackAddr hinv v)

/-- Unpacking a packed status byte gives the flags (10_state.md R31, R32). -/
theorem Flags.unpack_pack (f : Flags) : Flags.unpack f.pack = f := statusByteRoundTrip.2.1 f

/-- Settles O30: the push is one raw write in the stack page. -/
theorem pushesChangeOneStackByte : Obligations.PushesChangeOneStackByte := by
  intro i s t hm h
  have hbyte : ∀ m ∈ [Mnemonic.pha, .php], ∃ v, pushedByte s m = some v := by
    simp [pushedByte]
  obtain ⟨v, hv⟩ := hbyte _ hm
  have ht := exec_push hv h
  refine ⟨?frame, fun b hb => ⟨?other, ?otherRaw⟩, fun hinv => ⟨fun hpha => ?pha, fun hphp => ?php⟩⟩
  case frame => subst ht; exact ⟨rfl, rfl, rfl, rfl, rfl, rfl⟩
  case other =>
    subst ht
    exact (State.memRead_congr rfl rfl b).trans (State.memRead_rawWrite_other s v hb)
  case otherRaw => subst ht; exact State.rawRead_rawWrite_other s v hb
  case pha => exact exec_push_memRead hinv (by rw [hpha]; rfl) h
  case php => rw [exec_push_memRead hinv (by rw [hphp]; rfl) h, Flags.unpack_pack]

/-- Settles O34: PLA reads at the SP that PHA wrote at. -/
theorem phaThenPlaRestoresA : Obligations.PhaThenPlaRestoresA := by
  intro s t u hinv hpha hpla
  have hread := exec_push_memRead hinv rfl hpha
  have ht := exec_push rfl hpha
  have hsp : t.sp + 1 = s.sp := by rw [ht]; exact BitVec.sub_add_cancel s.sp 1
  have hu : u = ({ t.advance 1 with sp := t.sp + 1 }).load .a (t.memRead (0x0100 + zext16 (t.sp + 1))) :=
    exec_next_iff.mp hpla
  rw [hsp, zext16, hread] at hu
  subst hu ht
  exact ⟨rfl, rfl, rfl, rfl, rfl⟩

/-- Settles O35: PLP reads at the SP that PHP wrote at, and unpacks the byte found there. -/
theorem phpThenPlpRestoresFlags : Obligations.PhpThenPlpRestoresFlags := by
  intro s t u w hinv hphp husp hubyte hplp
  have hread := exec_push_memRead hinv rfl hphp
  have hsp : u.sp + 1 = s.sp := by rw [husp, exec_push rfl hphp]; exact BitVec.sub_add_cancel s.sp 1
  have hw : w = { u.advance 1 with
      sp := u.sp + 1, flags := Flags.unpack (u.memRead (0x0100 + zext16 (u.sp + 1))) } := exec_next_iff.mp hplp
  rw [hsp, zext16, hubyte, hread] at hw
  subst hw
  exact ⟨Flags.unpack_pack s.flags, rfl⟩

end Sys2Proof.Machine
end

section
/-! PROOFS. The step: what the fetch answers decides it (40_fetch_decode_addressing.md R120; 60_exceptions.md R220). -/

namespace Sys2Proof

/-- A row does not look at the operand bytes that its format lacks. -/
theorem opcodeTable_make_of_length : ∀ row ∈ opcodeTable, ∀ b1 b2 : Byte,
    row.make (if 2 ≤ row.mode.length then b1 else 0) (if row.mode.length = 3 then b2 else 0) = row.make b1 b2 := by
  simp [opcodeTable, loadRows, storeRows, transferRows, stackRows, Mode.length]

end Sys2Proof

namespace Sys2Proof.Machine

/-- The fetch at a byte with a row, from all three bytes at PC. -/
theorem fetchInstr_of_lookup {s : State} {row : OpRow} (h : lookup (s.memRead s.pc) = some row) :
    fetchInstr s = .ok (row.make (s.memRead (s.pc + 1)) (s.memRead (s.pc + 2))) := by
  rw [fetchInstr_row h, opcodeTable_make_of_length row (lookup_some h).1]

/-- The fetch answers what the three bytes at PC decode to. -/
theorem fetchInstr_of_decode {s : State} {i : Instr} {rest : List Byte}
    (h : decode [s.memRead s.pc, s.memRead (s.pc + 1), s.memRead (s.pc + 2)] = .ok (i, rest)) :
    fetchInstr s = .ok i := by
  cases hl : lookup (s.memRead s.pc) with
  | none => simp [decode, hl] at h
  | some row =>
    simp only [decode, hl, opcodeTable_decodeOperands row (lookup_some hl).1] at h
    cases h
    exact fetchInstr_of_lookup hl

/-- A step with an instruction at PC is the instruction's meaning. -/
theorem step_of_fetchInstr {s : State} {i : Instr} (h : fetchInstr s = .ok i) : step s = exec i s := by
  simp only [step, h]

/-- The caller's reply to a step that goes on: the cycles, and the next state. -/
theorem callStep_of_exec {s t : State} {i : Instr} (h : fetchInstr s = .ok i) (hexec : exec i s = .next t) :
    hostCall .step s = (.ok (cycles i s), t) := by
  simp only [hostCall, callStep, h, hexec]

/-- With no row for the byte at PC, the step and the caller's reply carry that byte, and nothing changes. -/
theorem step_of_lookup_none {s : State} (h : lookup (s.memRead s.pc) = none) :
    step s = .fault (.unknownOpcode (s.memRead s.pc)) ∧
      hostCall .step s = (.unknownOpcode (s.memRead s.pc), s) := by
  simp only [step, hostCall, callStep, fetchInstr_unknown h, raiseUnknownOpcode, and_self]

/-- Settles O8: the fetch answers the decoded instruction. -/
theorem stepRunsDecodedInstruction : Obligations.StepRunsDecodedInstruction :=
  fun _ _ _ h => step_of_fetchInstr (fetchInstr_of_decode h)

/-- Settles O9: a byte that begins no encoding has no row. -/
theorem unassignedByteRaisesUnknownOpcode : Obligations.UnassignedByteRaisesUnknownOpcode :=
  fun _ h => step_of_lookup_none ((lookup_eq_none_iff _).mpr h)

/-- An instruction at PC is executed, since every meaning completes. -/
theorem step_next_of_fetchInstr {s : State} {i : Instr} (h : fetchInstr s = .ok i) :
    ∃ t, exec i s = .next t ∧ step s = .next t ∧ hostCall .step s = (.ok (cycles i s), t) := by
  have hexec := exec_eq_effect i s
  exact ⟨_, hexec, (step_of_fetchInstr h).trans hexec, callStep_of_exec h hexec⟩

/-- Settles O10: the byte at PC has a row, whose instruction completes, or none. -/
theorem noOtherException : Obligations.NoOtherException := by
  intro s
  cases hl : lookup (s.memRead s.pc) with
  | none => exact Or.inr ⟨(lookup_eq_none_iff _).mp hl, step_of_lookup_none hl⟩
  | some row =>
    obtain ⟨t, _, hstep, hcall⟩ := step_next_of_fetchInstr (fetchInstr_of_lookup hl)
    exact Or.inl ⟨t, _, hstep, hcall⟩

/-- Settles O11: the fetch answers the decoded instruction, which completes. -/
theorem callerGetsCyclesAndNextState : Obligations.CallerGetsCyclesAndNextState := by
  intro s i rest h
  obtain ⟨t, _, hstep, hcall⟩ := step_next_of_fetchInstr (fetchInstr_of_decode h)
  exact ⟨t, hstep, hcall⟩

/-- A byte that begins an encoding is the opcode of the instruction fetched where it stands. -/
theorem fetchInstr_of_head? {s : State} {j : Instr} (h : (encode j).head? = some (s.memRead s.pc)) :
    ∃ k, fetchInstr s = .ok k ∧ (encode k).head? = some (s.memRead s.pc) := by
  cases hl : lookup (s.memRead s.pc) with
  | none => exact absurd h ((lookup_eq_none_iff _).mp hl j)
  | some row =>
    obtain ⟨hmem, hop⟩ := lookup_some hl
    exact ⟨_, fetchInstr_of_lookup hl, by rw [encode_make hmem, hop, List.head?_cons]⟩

/-- Settles O54: the byte at the next PC is the one written, and the next step is decided by it. -/
theorem nextFetchSeesStore : Obligations.NextFetchSeesStore := by
  intro i s t v hinv h hwrite
  have hpc : t.pc = s.pc + BitVec.ofNat 16 i.length := (pcAdvancesByLength i s t h).1
  have hread : t.memRead t.pc = v := by
    rw [hpc]
    obtain ⟨hsrc, ⟨crossed, ha⟩, hdeclined⟩ | ⟨hsrc, ha⟩ := hwrite
    · have hstored : ∃ r, storeSrc i.mnemonic = some r ∧ v = s.reg r := by
        obtain ⟨hm, hv⟩ | ⟨hm, hv⟩ | ⟨hm, hv⟩ := hsrc <;> rw [hm] <;> exact ⟨_, rfl, hv⟩
      obtain ⟨r, hr, rfl⟩ := hstored
      rw [exec_store hr ha h, State.memRead_rawWrite_same (s := s.advance i.length) hinv]
      exact congrArg (Option.getD · _) hdeclined
    · have hpushed : pushedByte s i.mnemonic = some v := by
        obtain ⟨hm, hv⟩ | ⟨hm, hv⟩ := hsrc <;> rw [hm, hv] <;> rfl
      rw [ha, exec_push_memRead hinv hpushed h]
  refine ⟨hread, fun hnone => ?unassigned, fun j hj => ?assigned⟩ <;> subst hread
  case unassigned => exact (unassignedByteRaisesUnknownOpcode t hnone).1
  case assigned =>
    obtain ⟨k, hfetch, hhead⟩ := fetchInstr_of_head? hj
    obtain ⟨u, hexec, hstep, _⟩ := step_next_of_fetchInstr hfetch
    exact ⟨k, u, hfetch, hhead, hexec, hstep⟩

end Sys2Proof.Machine
end

section
/-! PROOFS. Other character bytes change nothing that a step reads (20_memory.md section 3). -/

namespace Sys2Proof.Machine

/-- The fetch looks at PC and at what the CPU reads alone. -/
theorem fetchInstr_congr {s t : State} (hpc : s.pc = t.pc) (hread : ∀ addr, s.memRead addr = t.memRead addr) :
    fetchInstr s = fetchInstr t := by
  have hop : s.memRead s.pc = t.memRead t.pc := by rw [hread, hpc]
  cases hl : lookup (t.memRead t.pc) with
  | none => rw [fetchInstr_unknown hl, fetchInstr_unknown (hop ▸ hl), hop]
  | some row => rw [fetchInstr_of_lookup hl, fetchInstr_of_lookup (hop ▸ hl), hread, hread, hpc]

/-- A CPU read of the cartridge does not look at the character buffer (20_memory.md R58, R63). -/
theorem CartState.cpuRead_with_chr (c : CartState) (chr : List Byte) (addr : Addr) :
    CartState.cpuRead { c with chr := chr } addr = c.cpuRead addr := rfl

/-- No addressing mode reads the cartridge. -/
theorem resolve_with_cart (i : Instr) (s : State) (c : Option CartState) :
    resolve i { s with cart := c } = resolve i s := by
  cases i <;> rfl

section
variable {s : State} {c : CartState} (hc : s.cart = some c) (chr : List Byte)
include hc

/-- No CPU read sees the character buffer. -/
theorem State.memRead_with_chr (addr : Addr) :
    State.memRead { s with cart := some { c with chr := chr } } addr = s.memRead addr := by
  have hread : State.cartRead { s with cart := some { c with chr := chr } } addr = s.cartRead addr := by
    simp only [State.cartRead, hc, c.cpuRead_with_chr chr]
  simp only [State.memRead, hread]
  rfl

/-- Every effect is the same with other character bytes, which it keeps. -/
theorem effect_with_chr (m : Mnemonic) (k : Nat) (o : Operand) :
    effect m k o { s with cart := some { c with chr := chr } } =
      { effect m k o s with cart := some { c with chr := chr } } := by
  have hread := State.memRead_with_chr hc chr
  cases m
  case lda | ldx | ldy => cases o <;> simp only [effect, Operand.value, hread] <;> rfl
  case pla | plp => simp only [effect, hread]; rfl
  all_goals rfl

end

/-- Settles O32: the same instruction is fetched, with the same operand, and has the same effect. -/
theorem characterMemoryIsInvisible : Obligations.CharacterMemoryIsInvisible := by
  intro s t c chr hc hstep
  obtain ⟨i, hfetch, hexec⟩ := step_next hstep
  have hfetch' : fetchInstr { s with cart := some { c with chr := chr } } = .ok i := by
    rw [← hfetch]
    exact fetchInstr_congr rfl (State.memRead_with_chr hc chr)
  rw [step_of_fetchInstr hfetch', exec_eq_effect, resolve_with_cart, effect_with_chr hc chr, exec_next_iff.mp hexec]

end Sys2Proof.Machine
end

section
/-! PROOFS. The indexed operands, the page crossing and the cycles (40_fetch_decode_addressing.md sections 3 and 6). -/

namespace Sys2Proof.Machine

theorem toNat_hiByte (w : Addr) : (hiByte w).toNat = w.toNat / 256 := by
  have hw := w.isLt
  rw [hiByte, BitVec.extractLsb'_toNat, Nat.shiftRight_eq_div_pow]
  omega

/-- ABSX and ABSY as a number (R128, R129, D10). -/
theorem toNat_eaAbsIndexed (base16 : Addr) (index : Byte) :
    (eaAbsIndexed base16 index).toNat = (base16.toNat + index.toNat) % 65536 := by
  rw [eaAbsIndexed, BitVec.toNat_add, zext16, BitVec.toNat_setWidth_of_le (by decide)]

/-- Indexing leaves the base's page exactly when the low bytes carry, past 0xFFFF too. -/
theorem pageCrossed_eaAbsIndexed (base16 : Addr) (index : Byte) :
    pageCrossed base16 (eaAbsIndexed base16 index) = decide (256 ≤ base16.toNat % 256 + index.toNat) := by
  have hb := base16.isLt
  have hi := index.isLt
  rw [pageCrossed, bne, Bool.eq_iff_iff, Bool.not_eq_true', beq_eq_false_iff_ne, decide_eq_true_eq, ne_eq,
    ← BitVec.toNat_inj, toNat_hiByte, toNat_hiByte, toNat_eaAbsIndexed]
  omega

/-- ABSX and ABSY resolve to the 16-bit sum with the carry of the low bytes. -/
theorem resolveAbsIndexed_eq (base16 : Addr) (index : Byte) :
    resolveAbsIndexed base16 index =
      .ea (eaAbsIndexed base16 index) (decide (256 ≤ base16.toNat % 256 + index.toNat)) := by
  rw [resolveAbsIndexed, pageCrossed_eaAbsIndexed]

/-- The same from the two bytes of the base. -/
theorem resolveAbsIndexed_wordOf (lo hi index : Byte) :
    ∃ a : Addr, resolveAbsIndexed (wordOf lo hi) index = .ea a (decide (256 ≤ lo.toNat + index.toNat)) ∧
      a.toNat = (256 * hi.toNat + lo.toNat + index.toNat) % 65536 := by
  have hlo : (256 * hi.toNat + lo.toNat) % 256 = lo.toNat := by
    rw [Nat.mul_add_mod, Nat.mod_eq_of_lt lo.isLt]
  refine ⟨eaAbsIndexed (wordOf lo hi) index, ?_, ?_⟩
  · rw [resolveAbsIndexed_eq, toNat_wordOf, hlo]
  · rw [toNat_eaAbsIndexed, toNat_wordOf]

/-- Settles O21: the operand by the mode, then the address of each mode as a number. -/
theorem indexedOperands : Obligations.IndexedOperands := by
  intro s i rest h
  have hres := resolve_of_decode h s
  refine ⟨fun hm => ?_, fun hm => ?_, fun hm => ?_⟩ <;> rw [hm] at hres <;> rw [hres]
  · exact ⟨_, rfl, toNat_eaZpIndexed _ _⟩
  · exact resolveAbsIndexed_wordOf _ _ _
  · exact resolveAbsIndexed_wordOf _ _ _

/-- Settles O52: the row of each opcode byte has these cycles. -/
theorem baseCycleTable : Obligations.BaseCycleTable := by
  intro i
  cases i <;> rfl

/-- A load in ABSX or ABSY takes one more cycle when the low bytes carry (R140). -/
theorem extraCycles_of_load {i : Instr} {s : State} {b : Addr} {index : Byte} (hload : Mnemonic.isLoad i.mnemonic = true)
    (hmode : i.mode = .absx ∨ i.mode = .absy) (hres : resolve i s = resolveAbsIndexed b index) :
    extraCycles i s = if 256 ≤ b.toNat % 256 + index.toNat then 1 else 0 := by
  rw [extraCycles, hres, resolveAbsIndexed_eq]
  by_cases hcarry : 256 ≤ b.toNat % 256 + index.toNat
  · simp only [hcarry, decide_true, hload, hmode, and_self, if_true]
  · simp only [hcarry, decide_false, if_false]

/-- Any other instruction takes no more (R140). -/
theorem extraCycles_of_not_load {i : Instr} (h : ¬ (Mnemonic.isLoad i.mnemonic = true ∧ (i.mode = .absx ∨ i.mode = .absy)))
    (s : State) : extraCycles i s = 0 := by
  unfold extraCycles
  split
  · exact if_neg h
  · rfl

/-- Settles O53: the four loads in ABSX and ABSY, and the others. -/
theorem pageCrossingCycle : Obligations.PageCrossingCycle := by
  intro i s
  refine congrArg (baseCycles i + ·) ?_
  cases i
  case ldaAbsx | ldyAbsx => exact extraCycles_of_load rfl (.inl rfl) rfl
  case ldaAbsy | ldxAbsy => exact extraCycles_of_load rfl (.inr rfl) rfl
  all_goals exact extraCycles_of_not_load (by simp [Mnemonic.isLoad, Instr.mnemonic, Instr.mode]) s

end Sys2Proof.Machine
end

section
/-! PROOFS. Runs of several steps go straight on (40_fetch_decode_addressing.md section 5). -/

namespace Sys2Proof.Machine

/-- A run of no step stays. -/
theorem runsTo_zero {s t : State} (h : runsTo 0 s t) : t = s := by
  cases h; rfl

/-- A run begins with its first step. -/
theorem runsTo_succ {k : Nat} {s t : State} (h : runsTo (k + 1) s t) : ∃ u, step s = .next u ∧ runsTo k u t := by
  cases hstep : step s with
  | next u => exact ⟨u, rfl, by simpa [runsTo, Host.Core.run, core, hstep] using h⟩
  | fault r => simp [runsTo, Host.Core.run, core, hstep] at h
  | refused r => simp [runsTo, Host.Core.run, core, hstep] at h

/-- Settles O40: by induction on the number of steps, the first of which moves PC by 1 to 3. -/
theorem runsGoStraightOn : Obligations.RunsGoStraightOn := by
  intro k
  induction k with
  | zero =>
    intro s t h
    obtain rfl := runsTo_zero h
    exact ⟨⟨0, by omega, by omega, (BitVec.add_zero _).symm⟩, rfl, id⟩
  | succ k ih =>
    intro s t h
    obtain ⟨u, hstep, hrun⟩ := runsTo_succ h
    obtain ⟨⟨n, hkn, hn, hpc⟩, hcart, hinv⟩ := ih u t hrun
    obtain ⟨i, _, hexec⟩ := step_next hstep
    obtain ⟨hupc, _, hlo, hhi⟩ := pcAdvancesByLength i s u hexec
    refine ⟨⟨i.length + n, by omega, by omega, ?_⟩, hcart.trans (stepNeverChangesCartridge s u hstep),
      fun hs => hinv (stepKeepsInvariant s u hs hstep)⟩
    rw [hpc, hupc, BitVec.add_assoc, BitVec.ofNat_add]

end Sys2Proof.Machine
end

section
/-! PROOFS. The cartridge: what each of its accesses answers, by its mapper (20_memory.md sections 4 and 5). -/

namespace Sys2Proof.Machine

/-- A mapper is registered for identifier 0 alone (20_memory.md R70). -/
theorem isSome_mapperOf (id : Byte) : (mapperOf id).isSome = true ↔ id = 0 := by
  by_cases h : id = 0
  · exact iff_of_true (h ▸ rfl) h
  · exact iff_of_false (by rw [mapperOf_other h]; exact Bool.false_ne_true) h

/-- What a cartridge as Load builds it satisfies (10_state.md R35). -/
theorem CartState.wf_iff (c : CartState) :
    c.wf = true ↔ c.prg.length = 16384 * c.prgBanks.toNat ∧
      (c.chr.length = if c.chrBanks = 0 then 8192 else 8192 * c.chrBanks.toNat) ∧
      c.chrIsRam = decide (c.chrBanks = 0) ∧ (c.valid = true → c.mapperId = 0) := by
  simp only [CartState.wf, Bool.and_eq_true, decide_eq_true_eq, beq_iff_eq, Bool.or_eq_true, Bool.not_eq_true',
    isSome_mapperOf, and_assoc, ← Bool.not_eq_true, ← imp_iff_not_or]
  rfl

section
variable {c : CartState} (hwf : c.wf = true)
include hwf

theorem CartState.prg_length : c.prg.length = 16384 * c.prgBanks.toNat := (c.wf_iff.mp hwf).1

theorem CartState.mapperId_of_valid (hv : c.valid = true) : c.mapperId = 0 := by
  obtain ⟨_, _, _, hid⟩ := c.wf_iff.mp hwf
  exact hid hv

/-- The character buffer fills the character window, as RAM or as one bank or more. -/
theorem CartState.chr_length_ge : 8192 ≤ c.chr.length := by
  obtain ⟨_, hlen, _, _⟩ := c.wf_iff.mp hwf
  rw [hlen]
  split
  · omega
  · next hbanks =>
    have : c.chrBanks.toNat ≠ 0 := fun h => hbanks (BitVec.eq_of_toNat_eq h)
    omega

end

section
variable {c : CartState} (hv : c.valid = true) (hm : c.mapperId = 0)
include hv hm

/-- A CPU read of the direct map, with the offset as a number (20_memory.md R58, R63). -/
theorem CartState.cpuRead_directMap (addr : Addr) :
    c.cpuRead addr =
      if 0x8000 ≤ addr.toNat then
        c.prg[if 1 < c.prgBanks.toNat then addr.toNat - 0x8000 else addr.toNat % 16384]?
      else none := by
  have hlt := addr.isLt
  have hmask15 : (addr &&& 0x7FFF).toNat = addr.toNat % 32768 := Nat.and_two_pow_sub_one_eq_mod addr.toNat 15
  have hmask14 : (addr &&& 0x3FFF).toNat = addr.toNat % 16384 := Nat.and_two_pow_sub_one_eq_mod addr.toNat 14
  have hwindow : Config.prgWindowBase ≤ addr ↔ 0x8000 ≤ addr.toNat := Iff.rfl
  simp only [CartState.cpuRead, CartState.mapper_directMap hv hm, Mapper.cpuReadTranslate, hwindow]
  by_cases hin : 0x8000 ≤ addr.toNat
  · have hoff : addr.toNat % 32768 = addr.toNat - 0x8000 := by omega
    by_cases hbanks : 1 < c.prgBanks.toNat
    · rw [if_pos hin, if_pos hin, if_pos hbanks, if_pos hbanks, hmask15, hoff]
    · rw [if_pos hin, if_pos hin, if_neg hbanks, if_neg hbanks, hmask14]
  · rw [if_neg hin, if_neg hin]

/-- A video read of the direct map: one to one in the character window (R60, R65). -/
theorem CartState.videoRead_directMap (addr : Addr) :
    c.videoRead addr = if addr.toNat ≤ 0x1FFF then c.chr[addr.toNat]? else none := by
  have hwindow : addr ≤ Config.chrWindowTop ↔ addr.toNat ≤ 0x1FFF := Iff.rfl
  simp only [CartState.videoRead, CartState.mapper_directMap hv hm, Mapper.videoReadTranslate, hwindow]
  by_cases hin : addr.toNat ≤ 0x1FFF
  · rw [if_pos hin, if_pos hin]
  · rw [if_neg hin, if_neg hin]

/-- A video write to the direct map: claimed in the character window of RAM, where it sets that byte (R61, R66). -/
theorem CartState.videoWrite_directMap (addr : Addr) (v : Byte) :
    c.videoWrite addr v =
      if (addr.toNat ≤ 0x1FFF ∧ c.chrIsRam = true) ∧ addr.toNat < c.chr.length then
        (true, { c with chr := c.chr.set addr.toNat v })
      else (false, c) := by
  have hwindow : addr ≤ Config.chrWindowTop ↔ addr.toNat ≤ 0x1FFF := Iff.rfl
  simp only [CartState.videoWrite, CartState.mapper_directMap hv hm, Mapper.videoWriteTranslate, hwindow]
  by_cases hin : addr.toNat ≤ 0x1FFF ∧ c.chrIsRam = true
  · simp only [hin, and_self, true_and, if_true]
  · simp only [hin, false_and, if_false]

end

/-- Settles O41: the three parts of the direct map's read. -/
theorem directMapCpuReads : Obligations.DirectMapCpuReads := by
  intro c addr hv hm
  rw [CartState.cpuRead_directMap hv hm]
  refine ⟨fun hlo => if_neg (by omega), fun hhi hone => ?_, fun hhi htwo => ?_⟩
  · rw [if_pos hhi, if_neg (by omega)]
  · rw [if_pos hhi, if_pos (by omega)]

/-- Flipping bit 14 keeps an address in the program window, with the same low 14 bits. -/
theorem toNat_xor_bit14 (addr : Addr) :
    (addr ^^^ 0x4000).toNat % 16384 = addr.toNat % 16384 ∧
      (0x8000 ≤ addr.toNat → 0x8000 ≤ (addr ^^^ 0x4000).toNat) := by
  have hxor : (addr ^^^ 0x4000).toNat = addr.toNat ^^^ 0x4000 := BitVec.toNat_xor addr 0x4000
  have hlow : (addr.toNat ^^^ 0x4000) % 2 ^ 14 = addr.toNat % 2 ^ 14 := by
    rw [Nat.xor_mod_two_pow, Nat.mod_self, Nat.xor_zero]
  have hhigh : (addr.toNat ^^^ 0x4000) / 2 ^ 15 = addr.toNat / 2 ^ 15 := by
    rw [Nat.xor_div_two_pow, Nat.div_eq_of_lt (by decide : 0x4000 < 2 ^ 15), Nat.xor_zero]
  rw [hxor]
  omega

/-- Settles O42: both addresses translate to the same offset, which lies in the bank. -/
theorem oneBankIsMirrored : Obligations.OneBankIsMirrored := by
  intro c addr hwf hv hbanks haddr
  have hm := CartState.mapperId_of_valid hwf hv
  have hone : c.prgBanks.toNat ≤ 1 := by rw [hbanks]; decide
  have hlen : c.prg.length = 16384 := by rw [CartState.prg_length hwf, hbanks]; rfl
  obtain ⟨hlow, hwindow⟩ := toNat_xor_bit14 addr
  obtain ⟨_, hread, _⟩ := directMapCpuReads c addr hv hm
  obtain ⟨_, hread', _⟩ := directMapCpuReads c (addr ^^^ 0x4000) hv hm
  have hoff : addr.toNat % 16384 < c.prg.length := by omega
  refine ⟨c.prg[addr.toNat % 16384], ?_, ?_⟩
  · rw [hread haddr hone, List.getElem?_eq_getElem hoff]
  · rw [hread' (hwindow haddr) hone, hlow, List.getElem?_eq_getElem hoff]

/-- An invalid cartridge declines every CPU read (20_memory.md R68). -/
theorem CartState.cpuRead_invalid {c : CartState} (hv : c.valid = false) (addr : Addr) : c.cpuRead addr = none := by
  simp only [CartState.cpuRead, CartState.mapper_invalid hv]

/-- Settles O43: no mapper answers for an invalid cartridge. -/
theorem invalidCartridgeDeclines : Obligations.InvalidCartridgeDeclines := by
  intro s c addr v hc hv
  have hmap := CartState.mapper_invalid hv
  have hread := CartState.cpuRead_invalid hv addr
  refine ⟨hread, c.cpuWrite_declined addr v, ?_, ?_, ?_, s.memWrite_eq addr v⟩
  · simp only [CartState.videoRead, hmap]
  · simp only [CartState.videoWrite, hmap]
  · exact State.memRead_declined (by simp only [State.cartRead, hc, hread])

/-- Settles O55: the direct map's video read, whose window the buffer of a loaded cartridge fills. -/
theorem directMapVideoReads : Obligations.DirectMapVideoReads := by
  intro c addr hv hm
  rw [CartState.videoRead_directMap hv hm]
  refine ⟨fun hlo => if_pos hlo, fun hhi => if_neg (by omega), fun hwf hlo => ?_⟩
  have hlt : addr.toNat < c.chr.length := by have := CartState.chr_length_ge hwf; omega
  exact ⟨c.chr[addr.toNat], by rw [if_pos hlo, List.getElem?_eq_getElem hlt]⟩

/-- Settles O44: a claimed write sets one byte of the character buffer, which a video read looks up. -/
theorem videoWrites : Obligations.VideoWrites := by
  intro c addr v hwf hv
  have hm := CartState.mapperId_of_valid hwf hv
  have hlen := CartState.chr_length_ge hwf
  rw [CartState.videoWrite_directMap hv hm]
  refine ⟨fun hlo hram => ?ram, fun hhi => ⟨if_neg (by omega), ?above⟩, fun hrom => if_neg (by simp [hrom])⟩
  case ram =>
    have hlt : addr.toNat < c.chr.length := by omega
    have hread (b : Addr) := CartState.videoRead_directMap (c := { c with chr := c.chr.set addr.toNat v }) hv hm b
    refine ⟨_, if_pos ⟨⟨hlo, hram⟩, hlt⟩, ?_, fun b hb => ?_, rfl⟩
    · rw [hread, if_pos hlo, List.getElem?_set_self hlt]
    · have hne : addr.toNat ≠ b.toNat := fun h => hb (BitVec.eq_of_toNat_eq h.symm)
      rw [hread, CartState.videoRead_directMap hv hm, List.getElem?_set_ne hne]
  case above => rw [CartState.videoRead_directMap hv hm, if_neg (by omega)]

end Sys2Proof.Machine
end

section
/-! PROOFS. Writes under the cartridge and raw accesses (20_memory.md section 1; 60_exceptions.md section 5). -/

namespace Sys2Proof.Machine

/-- Settles O45: a CPU write is a raw write, which a claimed read does not see. -/
theorem writesUnderCartridgeAreShadowed : Obligations.WritesUnderCartridgeAreShadowed := by
  intro s addr v b hinv hclaimed
  rw [State.memWrite_eq]
  have hread : (s.rawWrite addr v).memRead addr = b := by
    rw [State.memRead_rawWrite_same hinv, hclaimed, Option.getD_some]
  refine ⟨hread, State.rawRead_rawWrite_same (State.wf_space hinv) addr v, fun a => ?_⟩
  by_cases ha : a = addr
  · rw [ha, hread, State.memRead_claimed hclaimed]
  · exact State.memRead_rawWrite_other s v ha

/-- Settles O46: the host's raw write is the state's, with its read and its CPU read. -/
theorem rawAccessesBypassCartridge : Obligations.RawAccessesBypassCartridge := by
  intro s addr v hinv
  have hread : (s.rawWrite addr v).rawRead addr = v := State.rawRead_rawWrite_same (State.wf_space hinv) addr v
  exact ⟨congrArg (fun b => (HostReply.byte b, s.rawWrite addr v)) hread, rfl, State.memRead_rawWrite_same hinv addr v⟩

end Sys2Proof.Machine
end

section
/-! PROOFS. Load: which files it accepts and the cartridge it builds (20_memory.md section 6). -/

namespace Sys2Proof.Machine

/-- The mapper identifier is 0 exactly when both high nibbles of the header are (20_memory.md R70). -/
theorem headerMapperId_eq_zero_iff (file : List Byte) :
    headerMapperId file = 0 ↔ (headerByte file 6).toNat / 16 = 0 ∧ (headerByte file 7).toNat / 16 = 0 := by
  have hmask : ∀ b : Byte, b &&& 0xF0 = 0 ↔ b.toNat / 16 = 0 := by decide
  have hshift : ∀ b : Byte, b >>> 4 = 0 ↔ b.toNat / 16 = 0 := by decide
  have hor (a b : Byte) : a ||| b = 0 ↔ a = 0 ∧ b = 0 := BitVec.or_eq_zero_iff
  exact (hor _ _).trans ((and_congr (hmask _) (hshift _)).trans and_comm)

/-- Where the program data begins, as a sum (R69, R71). -/
theorem prgStart_eq (file : List Byte) :
    prgStart file = 16 + (if (headerByte file 6).getLsbD 2 = true then 512 else 0) := by
  unfold prgStart
  split <;> rfl

/-- A load succeeds exactly when the three checks pass. -/
theorem load_error_eq_none_iff (file : List Byte) :
    (load (some file)).error = none ↔
      16 ≤ file.length ∧ prgStart file + prgLength file + chrLength file ≤ file.length ∧ headerMapperId file = 0 := by
  rw [load_some]
  split_ifs with hheader hbytes hid
  all_goals simp only [LoadResult.failed, reduceCtorEq, false_iff, true_iff]
  · omega
  · omega
  · exact fun ⟨_, _, h⟩ => hid h
  · exact ⟨by omega, by omega, not_not.mp hid⟩

/-- What a successful load builds. -/
theorem load_cart_of_error_none {file : List Byte} (h : (load (some file)).error = none) :
    (load (some file)).cart = loadedCart file := by
  obtain ⟨hheader, hbytes, hid⟩ := (load_error_eq_none_iff file).mp h
  rw [load_some, if_neg (by omega), if_neg (by omega), if_neg (not_not.mpr hid)]

/-- What a failed load leaves (R72). -/
theorem load_cart_of_error_some {file : Option (List Byte)} {e : LoadError} (h : (load file).error = some e) :
    (load file).cart = CartState.invalid := by
  cases file with
  | none => rfl
  | some file =>
    rw [load_some] at h ⊢
    split_ifs at h ⊢ <;> rfl

/-- Settles O47: the checks pass or one fails, and then the cartridge is invalid. -/
theorem loadAcceptsExactly : Obligations.LoadAcceptsExactly := by
  refine ⟨rfl, rfl, fun file => ⟨?_, ?_⟩⟩
  · rw [load_error_eq_none_iff, headerMapperId_eq_zero_iff, prgStart_eq]
    rfl
  · cases herr : (load (some file)).error with
    | none => simp [load_cart_of_error_none herr, loadedCart]
    | some e => simp [load_cart_of_error_some herr, CartState.invalid]

/-- A slice of a file has its length, when the file has the bytes, and the file's bytes from its start on. -/
theorem slice_of_file {file : List Byte} {start len : Nat} (h : start + len ≤ file.length) :
    ((file.drop start).take len).length = len ∧
      ∀ k, k < len → ((file.drop start).take len)[k]? = file[start + k]? := by
  refine ⟨?_, fun k hk => ?_⟩
  · rw [List.length_take, List.length_drop]
    omega
  · rw [List.getElem?_take_of_lt hk, List.getElem?_drop]

/-- The program buffer of a successful load. -/
theorem loadedCart_prg {file : List Byte} (h : (load (some file)).error = none) :
    (loadedCart file).prg.length = prgLength file ∧
      ∀ k, k < prgLength file → (loadedCart file).prg[k]? = file[prgStart file + k]? := by
  obtain ⟨_, hbytes, _⟩ := (load_error_eq_none_iff file).mp h
  exact slice_of_file (by omega)

/-- The character buffer of a successful load without a character bank (R73). -/
theorem loadedCart_chr_ram {file : List Byte} (hbanks : headerByte file 5 = 0) :
    (loadedCart file).chr = List.replicate 8192 0 := if_pos hbanks

/-- The character buffer of a successful load with a character bank. -/
theorem loadedCart_chr_rom {file : List Byte} (h : (load (some file)).error = none) (hbanks : headerByte file 5 ≠ 0) :
    (loadedCart file).chr.length = chrLength file ∧
      ∀ k, k < chrLength file → (loadedCart file).chr[k]? = file[prgStart file + prgLength file + k]? := by
  obtain ⟨_, hbytes, _⟩ := (load_error_eq_none_iff file).mp h
  rw [loadedCart, loadedChr, if_neg hbanks]
  exact slice_of_file hbytes

/-- Settles O48: the two buffers of the cartridge that a successful load builds. -/
theorem loadedBuffers : Obligations.LoadedBuffers := by
  intro file h
  obtain ⟨_, _, hid⟩ := (load_error_eq_none_iff file).mp h
  obtain ⟨hlen, hprg⟩ := loadedCart_prg h
  rw [load_cart_of_error_none h]
  refine ⟨rfl, rfl, hid, hlen, fun k hk => ?prg, fun hbanks => ⟨loadedCart_chr_ram hbanks, decide_eq_true hbanks⟩,
    fun hbanks => ?rom⟩
  case prg =>
    rw [hprg k (hlen ▸ hk), prgStart_eq]
    rfl
  case rom =>
    obtain ⟨hchrLen, hchr⟩ := loadedCart_chr_rom h hbanks
    refine ⟨hchrLen, decide_eq_false hbanks, fun k hk => ?_⟩
    rw [hchr k (hchrLen ▸ hk), hlen, prgStart_eq]
    rfl

/-- Every load leaves a cartridge whose buffers have the sizes its bank counts declare. -/
theorem load_wf (file : Option (List Byte)) : (load file).cart.wf = true := by
  cases herr : (load file).error with
  | some e => 
    rw [load_cart_of_error_some herr, CartState.wf_iff]
    exact ⟨rfl, List.length_replicate, rfl, fun _ => rfl⟩
  | none =>
    cases file with
    | none => cases herr
    | some file =>
      obtain ⟨_, _, hid, hprg, _, hram, hrom⟩ := loadedBuffers file herr
      rw [CartState.wf_iff]
      by_cases hbanks : (load (some file)).cart.chrBanks = 0
      · obtain ⟨hchr, hisRam⟩ := hram hbanks
        exact ⟨hprg, by rw [if_pos hbanks, hchr, List.length_replicate], by rw [hisRam, decide_eq_true hbanks],
          fun _ => hid⟩
      · obtain ⟨hchr, hisRam, _⟩ := hrom hbanks
        exact ⟨hprg, by rw [if_neg hbanks, hchr], by rw [hisRam, decide_eq_false hbanks], fun _ => hid⟩

end Sys2Proof.Machine
end

section
/-! PROOFS. Reset and the reset vector (70_reset_and_hazards.md section 1). -/

namespace Sys2Proof.Machine

/-- PC after a reset, byte by byte (R240). -/
theorem State.cpuReset_pc_eq (s : State) : s.cpuReset.pc = wordOf (s.memRead 0xFFFC) (s.memRead 0xFFFD) := rfl

/-- Settles O49: the reset writes constants, and PC is the word at the vector. -/
theorem resetValues : Obligations.ResetValues :=
  fun _ => ⟨rfl, toNat_wordOf _ _⟩

/-- Where the cartridge looks a read up inside its program buffer, the CPU reads the buffer's byte. -/
theorem State.prg_eq_memRead {s : State} {c : CartState} {addr : Addr} {k : Nat} (hc : s.cart = some c)
    (hread : c.cpuRead addr = c.prg[k]?) (hk : k < c.prg.length) : c.prg[k]? = some (s.memRead addr) := by
  have hget := List.getElem?_eq_getElem hk
  have hclaimed : s.cartRead addr = some c.prg[k] := by simp only [State.cartRead, hc, hread, hget]
  rw [State.memRead_claimed hclaimed, hget]

/-- The reset vector where the cartridge looks its two bytes up in its program buffer. -/
theorem State.cpuReset_pc_of_prg {s : State} {c : CartState} {k : Nat} (hc : s.cart = some c)
    (hlo : c.cpuRead 0xFFFC = c.prg[k]?) (hhi : c.cpuRead 0xFFFD = c.prg[k + 1]?) (hk : k + 1 < c.prg.length) :
    c.prg[k]? = some (loByte s.cpuReset.pc) ∧ c.prg[k + 1]? = some (hiByte s.cpuReset.pc) := by
  rw [State.cpuReset_pc_eq, loByte_wordOf, hiByte_wordOf]
  exact ⟨State.prg_eq_memRead hc hlo (by omega), State.prg_eq_memRead hc hhi hk⟩

/-- The reset vector where the cartridge, if any, declines. -/
theorem State.cpuReset_pc_of_declined {s : State} (h : ∀ addr, s.cartRead addr = none) :
    s.cpuReset.pc = wordOf (s.rawRead 0xFFFC) (s.rawRead 0xFFFD) := by
  rw [State.cpuReset_pc_eq, State.memRead_declined (h _), State.memRead_declined (h _)]

/-- Settles O50: the cartridge claims the vector exactly when it is valid and has a bank. -/
theorem resetVectorSource : Obligations.ResetVectorSource := by
  refine ⟨fun s c hc hwf hv hbanks => ?one, fun s c hc hwf hv hbanks => ?two, fun s hs => ?none,
    fun s c hc hwf hv hbanks => ?zero⟩
  case one =>
    have hm := CartState.mapperId_of_valid hwf hv
    obtain ⟨_, hlo, _⟩ := directMapCpuReads c 0xFFFC hv hm
    obtain ⟨_, hhi, _⟩ := directMapCpuReads c 0xFFFD hv hm
    have hone : c.prgBanks.toNat = 1 := by rw [hbanks]; rfl
    have hlen := CartState.prg_length hwf
    exact State.cpuReset_pc_of_prg hc (hlo (by decide) hone.le) (hhi (by decide) hone.le) (by omega)
  case two =>
    have hm := CartState.mapperId_of_valid hwf hv
    obtain ⟨_, _, hlo⟩ := directMapCpuReads c 0xFFFC hv hm
    obtain ⟨_, _, hhi⟩ := directMapCpuReads c 0xFFFD hv hm
    have hlen := CartState.prg_length hwf
    exact State.cpuReset_pc_of_prg hc (hlo (by decide) hbanks) (hhi (by decide) hbanks) (by omega)
  case none =>
    refine State.cpuReset_pc_of_declined fun addr => ?_
    obtain hc | ⟨c, hc, hv⟩ := hs
    · simp only [State.cartRead, hc]
    · simp only [State.cartRead, hc, CartState.cpuRead_invalid hv]
  case zero =>
    have hempty : c.prg = [] := List.eq_nil_of_length_eq_zero (by rw [CartState.prg_length hwf, hbanks]; rfl)
    refine State.cpuReset_pc_of_declined fun addr => ?_
    simp only [State.cartRead, hc, CartState.cpuRead_directMap hv (CartState.mapperId_of_valid hwf hv), hempty,
      List.getElem?_nil, ite_self]

/-- Settles O51: no cartridge and an empty AddressSpace, where every byte is the unwritten one. -/
theorem resetStateIsConstruction : Obligations.ResetStateIsConstruction :=
  ⟨rfl, rfl, fun _ => ⟨rfl, rfl⟩⟩

end Sys2Proof.Machine
end

section
/-! PROOFS. The invariant along a session (60_exceptions.md section 5; 70_reset_and_hazards.md sections 1 and 2). -/

namespace Sys2Proof.Machine

/-- A video write keeps the sizes of the buffers: it sets a byte or nothing. -/
theorem CartState.videoWrite_wf {c : CartState} (h : c.wf = true) (addr : Addr) (v : Byte) :
    (c.videoWrite addr v).2.wf = true := by
  cases hv : c.valid with
  | false => simpa only [CartState.videoWrite, CartState.mapper_invalid hv] using h
  | true =>
    rw [CartState.videoWrite_directMap hv (CartState.mapperId_of_valid h hv)]
    split
    · simpa only [CartState.wf, List.length_set] using h
    · exact h

/-- A call of the cartridge keeps the invariant when it keeps the cartridge as Load builds it. -/
theorem State.callCart_inv {s : State} (h : s.inv = true) {f : CartState → HostReply × CartState}
    (hf : ∀ c, c.wf = true → (f c).2.wf = true) : (s.callCart f).2.inv = true := by
  have hspace := State.wf_space h
  unfold State.callCart
  cases hc : s.cart with
  | none => exact h
  | some c =>
    refine (State.inv_iff _).mpr ⟨hspace, fun c' hc' => ?_⟩
    obtain rfl : (f c).2 = c' := Option.some.inj hc'
    exact hf c (State.wf_cart h hc)

/-- The caller's `step()` keeps the invariant: it leaves the state or goes to an instruction's next state. -/
theorem callStep_inv {s : State} (h : s.inv = true) : (callStep s).2.inv = true := by
  cases hfetch : fetchInstr s with
  | error op => simpa only [callStep, hfetch] using h
  | ok i =>
    simp only [callStep, hfetch, exec_eq_effect]
    exact effect_inv _ _ _ h

/-- Settles O38: call by call; only a raw write and a video write change a byte. -/
theorem hostCallsKeepInvariant : Obligations.HostCallsKeepInvariant := by
  intro call s h
  cases call with
  | step => exact callStep_inv h
  | reset => exact State.inv_congr rfl rfl h
  | read addr => exact h
  | write addr v => exact State.inv_rawWrite h addr v
  | cartCpuRead addr => exact State.callCart_inv h fun _ hc => hc
  | cartCpuWrite addr v => exact State.callCart_inv h fun c hc => by rwa [c.cpuWrite_declined]
  | cartVideoRead addr => exact State.callCart_inv h fun _ hc => hc
  | cartVideoWrite addr v => exact State.callCart_inv h fun _ hc => CartState.videoWrite_wf hc addr v
  | cartReset => exact State.callCart_inv h fun c hc => by rwa [c.reset_eq]
  | load file => exact h

/-- Settles O39: by induction on the session. -/
theorem reachableStatesHaveInvariant : Obligations.ReachableStatesHaveInvariant := by
  intro s h
  induction h with
  | construct cart hcart =>
    refine (State.inv_iff _).mpr ⟨Memory.wf_reset, fun c hc => ?_⟩
    obtain ⟨file, rfl⟩ := hcart c hc
    exact load_wf file
  | call call s _ ih => exact hostCallsKeepInvariant call s ih

end Sys2Proof.Machine
end
